-- ==== Sys2Proof/Word.lean ====
section
/-! DEFINITION. The widths of the core's values (spec 00_scope.md R10, R12): every value is an unsigned bit vector. -/

namespace Sys2Proof

/-- A command word or a response word (30_encoding.md R71, R72). -/
abbrev Word := BitVec 16

/-- One byte of a buffer, of a command's data field or of a response. -/
abbrev Byte := BitVec 8

/-- A register of the cipher engine: bit 0 is shifted out, bit 127 is where a new bit enters (00_scope.md R10). -/
abbrev Reg := BitVec 128

end Sys2Proof
end

