-- ==== Sys2Proof/Syntax.lean ====
section
/-! DEFINITION. The 18 commands of GSC-1 (spec 30_encoding.md R75), one constructor per row of the opcode table. -/

namespace Sys2Proof

/-- A command with its operands. An index is the whole 4-bit `a` field, as R76 makes every value of it legal for the
indexed commands (an index beyond the buffer is a fault of the command, not of the encoding); a bit operand is `d[0]`. -/
inductive Instr where
  /-- `NOP` (41_setup_and_init.md R110). -/
  | nop
  /-- `RST` (R111). -/
  | rst
  /-- `LDK k, byte` (R112). -/
  | ldk (k : BitVec 4) (byte : Byte)
  /-- `LDIV k, byte` (R113). -/
  | ldiv (k : BitVec 4) (byte : Byte)
  /-- `INIT` (R115). -/
  | init
  /-- `ADB bit` (42_stream_commands.md R132). -/
  | adb (bit : Bool)
  /-- `ADBY byte` (R133). -/
  | adby (byte : Byte)
  /-- `ENCB bit` (R134). -/
  | encb (bit : Bool)
  /-- `ENCBY byte` (R135). -/
  | encby (byte : Byte)
  /-- `DECB bit` (R136). -/
  | decb (bit : Bool)
  /-- `DECBY byte` (R137). -/
  | decby (byte : Byte)
  /-- `MACB bit` (R138). -/
  | macb (bit : Bool)
  /-- `MACBY byte` (R139). -/
  | macby (byte : Byte)
  /-- `FIN` (43_finalize_and_tag.md R151). -/
  | fin
  /-- `RDTAG k` (R152). -/
  | rdtag (k : BitVec 4)
  /-- `LDXT k, byte` (R154). -/
  | ldxt (k : BitVec 4) (byte : Byte)
  /-- `VFY` (R156). -/
  | vfy
  /-- `RDST` (R157). -/
  | rdst
  deriving DecidableEq, Repr

end Sys2Proof
end

