-- ==== Sys2Proof/Decode.lean ====
section
/-! DEFINITION. The decoder, total on all 65536 words, and the encoder (spec 30_encoding.md R71, R74 to R77). -/

namespace Sys2Proof

/-- Why a word is no command: the five classes (a) to (e) of R76. The core answers all of them alike. -/
inductive IllegalWord where
  /-- (a) `op` is E or F. -/
  | reservedOpcode
  /-- (b) A command without operands has a non-zero `a` or `d`. -/
  | operandsNotZero
  /-- (c) A stream opcode has `a` of 2 or more. -/
  | reservedWidth
  /-- (d) A bit-wide stream command has a non-zero `d[7:1]`. -/
  | bitOperandTooWide
  /-- (e) `RDTAG` has a non-zero `d`. -/
  | tagReadDataNotZero
  deriving DecidableEq, Repr

/-- What the decoder answers: a command, or the class of illegal word. -/
inductive Decoded where
  | command (i : Instr)
  | illegal (why : IllegalWord)
  deriving DecidableEq, Repr

/-- `W[15:12]` (R71). -/
def opField (w : Word) : BitVec 4 := w.extractLsb' 12 4

/-- `W[11:8]` (R71). -/
def aField (w : Word) : BitVec 4 := w.extractLsb' 8 4

/-- `W[7:0]` (R71). -/
def dField (w : Word) : Byte := w.extractLsb' 0 8

/-- A command that takes no operand: `a` and `d` must be 0 (R71, R76 (b)). -/
def decodePlain (a : BitVec 4) (d : Byte) (i : Instr) : Decoded :=
  if a = 0 ∧ d = 0 then .command i else .illegal .operandsNotZero

/-- A stream opcode: `a` = 0 selects one bit, taken from `d[0]` with `d[7:1]` = 0, `a` = 1 one byte (R71, R74). -/
def decodeStream (a : BitVec 4) (d : Byte) (bitForm : Bool → Instr) (byteForm : Byte → Instr) : Decoded :=
  if a = 0 then
    if d.extractLsb' 1 7 = 0 then .command (bitForm (d.getLsbD 0)) else .illegal .bitOperandTooWide
  else if a = 1 then .command (byteForm d)
  else .illegal .reservedWidth

/-- The opcode map of R75; R76 for every other word. -/
def decode (w : Word) : Decoded :=
  let a := aField w
  let d := dField w
  match (opField w).toNat with
  | 0x0 => decodePlain a d .nop
  | 0x1 => decodePlain a d .rst
  | 0x2 => .command (.ldk a d)
  | 0x3 => .command (.ldiv a d)
  | 0x4 => decodePlain a d .init
  | 0x5 => decodeStream a d .adb .adby
  | 0x6 => decodeStream a d .encb .encby
  | 0x7 => decodeStream a d .decb .decby
  | 0x8 => decodeStream a d .macb .macby
  | 0x9 => decodePlain a d .fin
  | 0xA => if d = 0 then .command (.rdtag a) else .illegal .tagReadDataNotZero
  | 0xB => .command (.ldxt a d)
  | 0xC => decodePlain a d .vfy
  | 0xD => decodePlain a d .rdst
  | _ => .illegal .reservedOpcode

/-- The word with the fields `op`, `a`, `d` (R71). -/
def pack (op a : BitVec 4) (d : Byte) : Word := op ++ a ++ d

/-- The data field of a bit-wide stream command: the operand in `d[0]`, zeros above (R74). -/
def bitData (b : Bool) : Byte := 0#7 ++ BitVec.ofBool b

/-- The word of a command, from the rows of R75. -/
def encode : Instr → Word
  | .nop => pack 0x0 0 0
  | .rst => pack 0x1 0 0
  | .ldk k byte => pack 0x2 k byte
  | .ldiv k byte => pack 0x3 k byte
  | .init => pack 0x4 0 0
  | .adb b => pack 0x5 0 (bitData b)
  | .adby byte => pack 0x5 1 byte
  | .encb b => pack 0x6 0 (bitData b)
  | .encby byte => pack 0x6 1 byte
  | .decb b => pack 0x7 0 (bitData b)
  | .decby byte => pack 0x7 1 byte
  | .macb b => pack 0x8 0 (bitData b)
  | .macby byte => pack 0x8 1 byte
  | .fin => pack 0x9 0 0
  | .rdtag k => pack 0xA k 0
  | .ldxt k byte => pack 0xB k byte
  | .vfy => pack 0xC 0 0
  | .rdst => pack 0xD 0 0

/-- The one command word that the low `nbits` bits of `w` give, higher bits 0 (log entry 12). -/
def tableWord (nbits w : Nat) : Word := BitVec.ofNat 16 (w % 2 ^ nbits)

/-- What the decoder reads from a word numbered as the opcode table numbers it. A command is one 16-bit word (R71), so
there is no byte order and no second word. -/
def decodeTableWord (nbits w : Nat) : Option Instr :=
  match decode (tableWord nbits w) with
  | .command i => some i
  | .illegal _ => none

end Sys2Proof
end

