-- ==== Sys2Proof/Config.lean ====
section
/-! DEFINITION. What an implementation fixes and the spec leaves as a parameter: the tap record `TAPS` (spec 00_scope.md
R6) and the gating policy `AUTH_POLICY` (R8). Both are constants of the hardware, not state (R15). -/

namespace Sys2Proof

/-- Which register a tap reads: `L` is `LFSR`, `N` is `NFSR` (R6). -/
inductive TapReg where
  | L
  | N
  deriving DecidableEq, Repr

/-- A tap `(reg, i)` (R6). -/
structure Tap where
  reg : TapReg
  idx : Fin 128
  deriving DecidableEq, Repr

/-- A monomial, the AND of its taps (R6). -/
abbrev Monomial := List Tap

/-- The configuration record `TAPS` (R6). R7's well-formedness is a separate check, WellFormed.lean; every rule is total
on any record. -/
structure Taps where
  lfsrTaps : List (Fin 128)
  nfsrLinTaps : List (Fin 128)
  nfsrAndPairs : List (Fin 128 × Fin 128)
  hMonomials : List Monomial
  preMonomials : List Monomial
  deriving DecidableEq, Repr, Inhabited

/-- `AUTH_POLICY`: which bit of a data step gates the accumulator (R8). -/
inductive AuthPolicy where
  /-- The plaintext bit, on encryption and on decryption (the default of R8). -/
  | pt
  /-- The ciphertext bit, on encryption and on decryption. -/
  | ct
  /-- Plaintext on encryption, ciphertext on decryption: the reported behaviour of the reference. -/
  | src
  deriving DecidableEq, Repr, Inhabited

/-- The parameters of the step function (R15). -/
structure Params where
  taps : Taps
  authPolicy : AuthPolicy
  deriving DecidableEq, Repr, Inhabited

/-- The parameters of the hardware at hand: free values, since the spec gives no tap index (92_eei_decisions.md D5) and
keeps every policy (D14). Nothing can be proved of them that does not hold of every `Params`. Log entries 1 and 3. -/
opaque Config.params : Params

namespace Config

/-- Shorthand for a tap on `LFSR`. -/
def tapL (i : Fin 128) : Tap := ⟨.L, i⟩

/-- Shorthand for a tap on `NFSR`. -/
def tapN (i : Fin 128) : Tap := ⟨.N, i⟩

/-- The demonstration configuration `TV1` (R9). The spec's own example: it serves the tests and the witnesses, the
machine never uses it. -/
def tv1 : Taps where
  lfsrTaps := [0, 7, 38, 70, 81, 96, 127]
  nfsrLinTaps := [0, 26, 56, 91, 96]
  nfsrAndPairs := [(3, 67), (11, 13), (17, 18), (27, 59), (40, 48), (61, 65), (68, 84)]
  hMonomials :=
    [[tapN 12, tapL 8], [tapL 13, tapL 20], [tapN 95, tapL 42], [tapL 60, tapL 79], [tapN 12, tapN 95, tapL 94],
      [tapL 93], [tapN 2], [tapN 15], [tapN 36], [tapN 45], [tapN 64], [tapN 73], [tapN 89]]
  preMonomials :=
    [[tapN 5, tapL 17], [tapL 29, tapL 101], [tapN 77, tapL 3], [tapL 64], [tapN 33], [tapN 90], [tapN 120]]

end Config

end Sys2Proof
end

