-- ==== Sys2Proof/Machine/State.lean ====
section
/-! DEFINITION. The state of the core (spec 10_state.md R33, "The complete list of state") with its command and response
port (30_encoding.md R70), the ways a step can stop, and the state after reset (70_reset_and_hazards.md R220, R221). -/

namespace Sys2Proof.Machine

/-- The phase register's five values (10_state.md R29; 93_implementation_defined.md U11: "A model may use a five-valued
type"; log entry 9). Their 3-bit codes are `phaseCode` in Flags.lean. -/
inductive Phase where
  | uninit
  | initialized
  | absorbingAd
  | generating
  | finalized
  deriving DecidableEq, Repr

/-- One sample of the input pins (30_encoding.md R70). -/
structure PortInput where
  /-- `rst_n`, active low: `false` asserts the hardware reset. -/
  rstN : Bool
  cmdValid : Bool
  cmd : Word
  rspReady : Bool
  deriving DecidableEq, Repr

/-- The fault codes of the response word (30_encoding.md R73). They are answers of a running core, not stops. -/
inductive ErrCode where
  | ok
  | invalidParameter
  | authenticationFailure
  /-- Reserved; the core never returns it (60_exceptions.md R193). -/
  | misuseError
  | protocolError
  | illegalCommand
  deriving DecidableEq, Repr

/-- Faults that stop the machine: none. A fault of the spec is a response and the core goes on (60_exceptions.md R190,
R199), so nothing raises one; log entry 4. -/
inductive Fault where
  deriving DecidableEq, Repr

/-- Refusals. -/
inductive Refusal where
  /-- An instruction without a meaning; raised by no arm of this model. Safe. -/
  | notModelled (mnemonic : String)
  /-- Raised by `step` when the host changes `cmd` while `cmd_valid` is high and `cmd_ready` low: the model has no move
  for it (93_implementation_defined.md U14). Safe; log entry 7. -/
  | commandChangedWhileStalled
  deriving DecidableEq, Repr

/-- The four registers of the cipher engine, which every register clock moves together. -/
structure Engine where
  /-- `LFSR` (10_state.md R20). -/
  lfsr : Reg
  /-- `NFSR` (R21). -/
  nfsr : Reg
  /-- `SR`, the authentication shift register (R23). -/
  sr : Reg
  /-- `ACC`, the accumulator; its low 64 bits are the tag in `finalized` (R24, R25). -/
  acc : Reg
  deriving DecidableEq, Repr

/-- The state of the core and of its port. -/
structure State where
  /-- `LFSR`, `NFSR`, `SR`, `ACC` (10_state.md R20 to R24). -/
  engine : Engine
  /-- `KEY`, the key staging buffer (R26). -/
  key : BitVec 128
  /-- `KV`, one valid bit per key byte (R26). -/
  kv : BitVec 16
  /-- `IV`, the IV staging buffer (R27). -/
  iv : BitVec 96
  /-- `IVV`, one valid bit per IV byte (R27). -/
  ivv : BitVec 12
  /-- `XTAG`, the expected tag (R28). -/
  xtag : BitVec 64
  /-- `XTV`, one valid bit per expected-tag byte (R28). -/
  xtv : BitVec 8
  /-- `PHASE` (R29). -/
  phase : Phase
  /-- `VOK` (R31). -/
  vok : Bool
  /-- `VFAIL` (R31). -/
  vfail : Bool
  /-- The response port: `rsp_valid` is 1 when this is a word, and `rsp` is that word (30_encoding.md R70). -/
  rsp : Option Word
  /-- The model's own: the word offered in the previous sample while `cmd_ready` was 0, if any (log entry 7). -/
  stalled : Option Word
  /-- The model's own: what the host drives on the input pins, one sample a step, the next first (log entry 6). -/
  inputs : List PortInput
  /-- The model's own: the responses the host has taken, oldest first, which is the observation of 00_scope.md R16
  (log entry 8). -/
  taken : List Word
  deriving DecidableEq, Repr

/-- The outcome of a command or of a step. -/
abbrev Result := Host.Outcome State Fault Refusal

/-- Right after reset every register is 0, the phase is `uninit` and no response is offered (70_reset_and_hazards.md R220,
R221); the host has driven and taken nothing yet (log entries 6, 7, 8). -/
def State.reset : State where
  engine := { lfsr := 0, nfsr := 0, sr := 0, acc := 0 }
  key := 0
  kv := 0
  iv := 0
  ivv := 0
  xtag := 0
  xtv := 0
  phase := .uninit
  vok := false
  vfail := false
  rsp := none
  stalled := none
  inputs := []
  taken := []

end Sys2Proof.Machine
end

