-- ==== Sys2Proof/Machine/Operands.lean ====
section
/-! DEFINITION. The operands of the stream commands: their bits in processing order, the byte made of their result bits, the
four kinds of stream command, and the gate selector (spec 20_memory.md R54, R55, R58; 42_stream_commands.md R130). -/

namespace Sys2Proof.Machine

/-- The operand bits of a byte-wide command in the order of processing: `d[7]`, ..., `d[0]` (20_memory.md R55). -/
def byteBits (d : Byte) : List Bool :=
  [d.getLsbD 7, d.getLsbD 6, d.getLsbD 5, d.getLsbD 4, d.getLsbD 3, d.getLsbD 2, d.getLsbD 1, d.getLsbD 0]

/-- The byte whose bit `n-1-j` is the `j`-th of the `n` result bits, zeros above (42_stream_commands.md R131): the first
bit of eight is bit 7, one bit alone is bit 0. -/
def assembleByte (bits : List Bool) : Byte :=
  bits.foldl (fun r b => (r <<< 1) ||| (BitVec.ofBool b).setWidth 8) 0

/-- The four kinds of stream command (42_stream_commands.md R130). -/
inductive StreamKind where
  /-- Associated data. -/
  | ad
  /-- Encryption. -/
  | enc
  /-- Decryption. -/
  | dec
  /-- Tag-only absorption of ciphertext. -/
  | mac
  deriving DecidableEq, Repr

/-- The gate selector of a step (40_register_pair_and_combiner.md R97). -/
inductive GateSel where
  /-- The operand bit. -/
  | operand
  /-- The operand bit XOR the step's keystream bit. -/
  | operandXorKs
  /-- The step's keystream bit. -/
  | ks
  deriving DecidableEq, Repr

/-- `GSEL(kind, AUTH_POLICY)`, the table of R130. -/
def gateSel : StreamKind → AuthPolicy → GateSel
  | .ad, _ => .operand
  | .enc, .pt => .operand
  | .enc, .ct => .operandXorKs
  | .enc, .src => .operand
  | .dec, .pt => .operandXorKs
  | .dec, .ct => .operand
  | .dec, .src => .operand
  | .mac, _ => .operand

/-- The gate bit of a step with operand bit `x` and keystream bit `y` (R97). -/
def gateBit : GateSel → Bool → Bool → Bool
  | .operand, x, _ => x
  | .operandXorKs, x, y => x ^^ y
  | .ks, _, y => y

/-- The phases that accept a stream command (R131, 10_state.md R30). -/
def streamAccepted : StreamKind → Phase → Bool
  | .ad, .initialized => true
  | .ad, .absorbingAd => true
  | .ad, _ => false
  | _, .initialized => true
  | _, .absorbingAd => true
  | _, .generating => true
  | _, _ => false

/-- The phase an accepted stream command leaves (R131). -/
def streamPhase : StreamKind → Phase
  | .ad => .absorbingAd
  | _ => .generating

/-- The response byte of a stream command: the result bits for `ENC` and `DEC`, 0 for `AD` and `MAC` (R131). -/
def streamData : StreamKind → List Bool → Byte
  | .ad, _ => 0
  | .mac, _ => 0
  | _, r => assembleByte r

end Sys2Proof.Machine
end

