-- ==== Sys2Proof/Machine/Datapath.lean ====
section
/-! DEFINITION. The datapath: feedback functions, register clock, combiner, pre-output, one engine step and one blind clock
(spec 40_register_pair_and_combiner.md R90 to R99; 41_setup_and_init.md R114). Every function takes the tap record. -/

namespace Sys2Proof.Machine

/-- `XORSUM`: 0 for the empty collection (00_scope.md R11). -/
def xorSum (bs : List Bool) : Bool := bs.foldr (· ^^ ·) false

/-- `ANDALL` (R11), never applied to an empty collection of a well-formed record. -/
def andAll (bs : List Bool) : Bool := bs.foldr (· && ·) true

/-- `TAPBIT` (R11). -/
def tapBit (lfsr nfsr : Reg) (t : Tap) : Bool :=
  match t.reg with
  | .L => lfsr.getLsbD t.idx
  | .N => nfsr.getLsbD t.idx

/-- The XOR of the ANDs of the monomials, the form of both `H` and `PRE` (40 R94, R95). -/
def evalMonomials (ms : List Monomial) (lfsr nfsr : Reg) : Bool :=
  xorSum (ms.map fun m => andAll (m.map (tapBit lfsr nfsr)))

/-- `FL`, the `LFSR` feedback bit (R91). -/
def fl (T : Taps) (lfsr : Reg) : Bool := xorSum (T.lfsrTaps.map fun (t : Fin 128) => lfsr.getLsbD t)

/-- `FN`, the `NFSR` feedback bit (R92). -/
def fn (T : Taps) (lfsr nfsr : Reg) : Bool :=
  lfsr.getLsbD 0 ^^ xorSum (T.nfsrLinTaps.map fun (t : Fin 128) => nfsr.getLsbD t)
    ^^ xorSum (T.nfsrAndPairs.map fun p => nfsr.getLsbD p.1 && nfsr.getLsbD p.2)

/-- `H` (R94). -/
def hBit (T : Taps) (lfsr nfsr : Reg) : Bool := evalMonomials T.hMonomials lfsr nfsr

/-- `KS`, the keystream bit (R94). -/
def ks (T : Taps) (lfsr nfsr : Reg) : Bool := hBit T lfsr nfsr ^^ nfsr.getLsbD 0

/-- `PRE`, the pre-output bit (R95). -/
def pre (T : Taps) (lfsr nfsr : Reg) : Bool := evalMonomials T.preMonomials lfsr nfsr

/-- `{ b, r[127:1] }`: shifts right by one, inserting `b` at bit 127; the shift of `CLOCK` (R93) and `SRSHIFT` (R96). -/
def shiftIn (b : Bool) (r : Reg) : Reg := BitVec.ofBool b ++ r.extractLsb' 1 127

/-- `r[127] <- r[127] xor b` (41 R114). -/
def xorTop (b : Bool) (r : Reg) : Reg := r ^^^ (BitVec.ofBool b ++ 0#127)

/-- The state part of `CLOCK`, steps 1 to 3 of R93: both feedback bits are taken before either register is written. -/
def clock (T : Taps) (e : Engine) : Engine :=
  { e with lfsr := shiftIn (fl T e.lfsr) e.lfsr, nfsr := shiftIn (fn T e.lfsr e.nfsr) e.nfsr }

/-- The bit `CLOCK` returns, step 4 of R93: `KS` on the updated register pair. -/
def clockBit (T : Taps) (e : Engine) : Bool := ks T (clock T e).lfsr (clock T e).nfsr

/-- `ACC <- ACC xor v` when the gate bit is 1 (R97). -/
def gateAcc (gate : Bool) (v : Reg) (e : Engine) : Engine :=
  match gate with
  | true => { e with acc := e.acc ^^^ v }
  | false => e

/-- `SR <- SRSHIFT(v, PRE())` with `PRE` of the current register pair (R96). -/
def advanceSr (T : Taps) (v : Reg) (e : Engine) : Engine := { e with sr := shiftIn (pre T e.lfsr e.nfsr) v }

/-- `STEP(gsel, x)` (R97): gate `ACC` with `SR` as it was before the step, clock, then shift `PRE` of the updated pair into
`SR`. The keystream bit it returns is `clockBit`. -/
def engineStep (T : Taps) (g : GateSel) (x : Bool) (e : Engine) : Engine :=
  advanceSr T e.sr (gateAcc (gateBit g x (clockBit T e)) e.sr (clock T e))

/-- The loop of `STREAM` (42 R131) over its operand bits: the result bits `x xor y`, in order, and the registers after. -/
def streamSteps (T : Taps) (g : GateSel) : List Bool → Engine → List Bool × Engine
  | [], e => ([], e)
  | x :: xs, e =>
    let rest := streamSteps T g xs (engineStep T g x e)
    ((x ^^ clockBit T e) :: rest.1, rest.2)

/-- `n` finalization steps `STEP(KS, -)` (43 R151). Irreducible, so that no proof by unfolding runs all 64. -/
@[irreducible] def finalSteps (T : Taps) : Nat → Engine → Engine
  | 0, e => e
  | n + 1, e => finalSteps T n (engineStep T .ks false e)

/-- `LFSR[127] <- LFSR[127] xor y` and the same on `NFSR` (41 R114). -/
def mixKeystream (y : Bool) (e : Engine) : Engine :=
  { e with lfsr := xorTop y e.lfsr, nfsr := xorTop y e.nfsr }

/-- `BLIND(i)` (41 R114): clock, XOR the keystream bit into bit 127 of both registers, and from index 192 on shift `PRE`
of the resulting pair into `SR`. -/
def blind (T : Taps) (i : Nat) (e : Engine) : Engine :=
  let b := mixKeystream (clockBit T e) (clock T e)
  if 192 ≤ i then advanceSr T b.sr b else b

/-- The blind clocks of index 0 to `n - 1`, in that order (41 R115). Irreducible as `finalSteps` is. -/
@[irreducible] def blindClocks (T : Taps) : Nat → Engine → Engine
  | 0, e => e
  | n + 1, e => blind T n (blindClocks T n e)

end Sys2Proof.Machine
end

