-- ==== Sys2Proof/Machine/Ops.lean ====
section
/-! DEFINITION. The named operations over buffers, registers and the response port that the commands share, taking a fault
among them (spec 00_scope.md R11; 20_memory.md R51; 60_exceptions.md R190). -/

namespace Sys2Proof.Machine

/-! ### Byte-indexed buffers -/

/-- `BufRead(B, k)`: byte `k` of a buffer, `B[8k+7:8k]` (00_scope.md R11). -/
def bufRead {n : Nat} (B : BitVec n) (k : Nat) : Byte := B.extractLsb' (8 * k) 8

/-- `BufWrite(B, k, v)`: `B[8k+7:8k] <- v`, other bytes unchanged (R11). -/
def bufWrite {n : Nat} (B : BitVec n) (k : Nat) (v : Byte) : BitVec n :=
  (B &&& ~~~(BitVec.setWidth n 0xFF#8 <<< (8 * k))) ||| (BitVec.setWidth n v <<< (8 * k))

/-- `M[k] <- 1`: marks byte `k` of a buffer as written (10_state.md R26, R27, R28). -/
def markWritten {n : Nat} (M : BitVec n) (k : Nat) : BitVec n := M ||| (1#n <<< k)

/-- Writes key byte `k` and its valid bit (41_setup_and_init.md R112). -/
def writeKeyByte (k : Nat) (byte : Byte) (s : State) : State :=
  { s with key := bufWrite s.key k byte, kv := markWritten s.kv k }

/-- Writes IV byte `k` and its valid bit (R113). -/
def writeIvByte (k : Nat) (byte : Byte) (s : State) : State :=
  { s with iv := bufWrite s.iv k byte, ivv := markWritten s.ivv k }

/-- Writes expected-tag byte `k` and its valid bit (43_finalize_and_tag.md R154). -/
def writeXtagByte (k : Nat) (byte : Byte) (s : State) : State :=
  { s with xtag := bufWrite s.xtag k byte, xtv := markWritten s.xtv k }

/-- Clears the expected tag, as `INIT` does (10_state.md R28). -/
def clearXtag (s : State) : State := { s with xtag := 0, xtv := 0 }

/-- The tag: `ACC[63:0]` (10_state.md R25). -/
def tag (s : State) : BitVec 64 := s.engine.acc.extractLsb' 0 64

/-- Writes the cipher registers. -/
def setEngine (e : Engine) (s : State) : State := { s with engine := e }

/-! ### The phase -/

/-- `PHASE <- p`. -/
def setPhase (p : Phase) (s : State) : State := { s with phase := p }

/-! ### Responses and faults -/

/-- The code of `err` (30_encoding.md R73). -/
def errCode : ErrCode → BitVec 4
  | .ok => 0
  | .invalidParameter => 1
  | .authenticationFailure => 2
  | .misuseError => 3
  | .protocolError => 4
  | .illegalCommand => 5

/-- A response word: `err`, four zero bits, `data` (R72). -/
def responseWord (e : ErrCode) (data : Byte) : Word := errCode e ++ 0#4 ++ data

/-- Puts a word on the response port. -/
def setRsp (r : Option Word) (s : State) : State := { s with rsp := r }

/-- `respond(v)`: the command ends without fault and the response data byte is `v` (00_scope.md R11). -/
def respond (data : Byte) (s : State) : Result := .next (setRsp (some (responseWord .ok data)) s)

/-- `raise E`, the one way a fault is taken: the command ends, the response carries the code and no data, and nothing is
saved (60_exceptions.md R190, R198). There is no return from it: the next command runs as any other (R199). -/
def raise (e : ErrCode) (s : State) : Result := .next (setRsp (some (responseWord e 0)) s)

/-! ### Reset -/

/-- Every register to its reset value (10_state.md R33; 41_setup_and_init.md R111; 70_reset_and_hazards.md R220). The
port is not a register of R33 and is left to the caller. -/
def resetRegisters (s : State) : State :=
  { s with
    engine := { lfsr := 0, nfsr := 0, sr := 0, acc := 0 }
    key := 0, kv := 0, iv := 0, ivv := 0
    xtag := 0, xtv := 0
    phase := .uninit, vok := false, vfail := false }

end Sys2Proof.Machine
end

