-- ==== Sys2Proof/Machine/Flags.lean ====
section
/-! DEFINITION. The two verdict flags and the status byte (spec 10_state.md R29, R31, R32). The core has no other flag. -/

namespace Sys2Proof.Machine

/-- The 3-bit code of `PHASE` (10_state.md R29). -/
def phaseCode : Phase → BitVec 3
  | .uninit => 0
  | .initialized => 1
  | .absorbingAd => 2
  | .generating => 3
  | .finalized => 4

/-- `VOK` and `VFAIL` after a comparison (R31, 43_finalize_and_tag.md R156). -/
def setVerdict (match_ : Bool) (s : State) : State := { s with vok := match_, vfail := !match_ }

/-- `VOK <- 0; VFAIL <- 0`, as `LDXT` and `INIT` do (R31). -/
def clearVerdict (s : State) : State := { s with vok := false, vfail := false }

/-- `KRDY`: all 16 key bytes have been written (R32). -/
def keyReady (s : State) : Bool := s.kv == 0xFFFF

/-- `IVRDY`: all 12 IV bytes have been written (R32). -/
def ivReady (s : State) : Bool := s.ivv == 0xFFF

/-- `XTRDY`: all 8 expected-tag bytes have been written (R32). -/
def xtagReady (s : State) : Bool := s.xtv == 0xFF

/-- `STATUS`, bit 7 first: `VFAIL`, `VOK`, `XTRDY`, `IVRDY`, `KRDY`, `PHASE` (R32). -/
def status (s : State) : Byte :=
  BitVec.ofBool s.vfail ++ BitVec.ofBool s.vok ++ BitVec.ofBool (xtagReady s) ++ BitVec.ofBool (ivReady s)
    ++ BitVec.ofBool (keyReady s) ++ phaseCode s.phase

end Sys2Proof.Machine
end

