-- ==== Sys2Proof/Machine/Finalize.lean ====
section
/-! DEFINITION. Finalization, tag read-out, tag verification and status (spec 43_finalize_and_tag.md R150 to R157). -/

namespace Sys2Proof.Machine

/-- The phases that accept `FIN` (R151). -/
def finAccepted : Phase → Bool
  | .uninit => false
  | .initialized => true
  | .absorbingAd => true
  | .generating => true
  | .finalized => false

/-- `FIN` under a given configuration (R151): 64 steps gated by their own keystream bit. -/
def finWith (C : Params) (s : State) : Result :=
  if finAccepted s.phase then respond 0 (setPhase .finalized (setEngine (finalSteps C.taps 64 s.engine) s))
  else raise .protocolError s

/-- `FIN` (R151). -/
def execFin (s : State) : Result := finWith Config.params s

/-- `RDTAG k` (R152): byte `k` of `ACC`. -/
def execRdtag (k : BitVec 4) (s : State) : Result :=
  if s.phase ≠ .finalized then raise .protocolError s
  else if 8 ≤ k.toNat then raise .invalidParameter s
  else respond (bufRead s.engine.acc k.toNat) s

/-- `LDXT k, byte` (R154). -/
def execLdxt (k : BitVec 4) (byte : Byte) (s : State) : Result :=
  if s.phase = .uninit then raise .protocolError s
  else if 8 ≤ k.toNat then raise .invalidParameter s
  else respond 0 (clearVerdict (writeXtagByte k.toNat byte s))

/-- `VFY` (R156): one equality over all 64 bits (R155); a mismatch sets the flags and then raises. -/
def execVfy (s : State) : Result :=
  if s.phase ≠ .finalized then raise .protocolError s
  else if !xtagReady s then raise .invalidParameter s
  else if s.xtag = tag s then respond 0 (setVerdict true s)
  else raise .authenticationFailure (setVerdict false s)

/-- `RDST` (R157). -/
def execRdst (s : State) : Result := respond (status s) s

end Sys2Proof.Machine
end

