-- ==== Sys2Proof/Machine/Setup.lean ====
section
/-! DEFINITION. The setup commands `NOP`, `RST`, `LDK`, `LDIV`, `INIT` (spec 41_setup_and_init.md R110 to R116). -/

namespace Sys2Proof.Machine

/-- `NOP` (R110). -/
def execNop (s : State) : Result := respond 0 s

/-- `RST` (R111). -/
def execRst (s : State) : Result := respond 0 (resetRegisters s)

/-- `LDK k, byte` (R112). -/
def execLdk (k : BitVec 4) (byte : Byte) (s : State) : Result :=
  if s.phase ≠ .uninit then raise .protocolError s
  else respond 0 (writeKeyByte k.toNat byte s)

/-- `LDIV k, byte` (R113); the phase is checked before the index (60_exceptions.md R196). -/
def execLdiv (k : BitVec 4) (byte : Byte) (s : State) : Result :=
  if s.phase ≠ .uninit then raise .protocolError s
  else if 12 ≤ k.toNat then raise .invalidParameter s
  else respond 0 (writeIvByte k.toNat byte s)

/-- The loaded registers at the start of `INIT`: the IV below 32 ones in `LFSR`, the key in `NFSR`, `ACC` cleared (R115,
20_memory.md R53). `SR` is left as it is (93_implementation_defined.md U1). -/
def loadedEngine (s : State) : Engine :=
  { s.engine with lfsr := 0xFFFFFFFF#32 ++ s.iv, nfsr := s.key, acc := 0 }

/-- `INIT` once its check has passed (R115). -/
def initSession (T : Taps) (s : State) : State :=
  setPhase .initialized (clearVerdict (clearXtag (setEngine (blindClocks T 320 (loadedEngine s)) s)))

/-- `INIT` under a given configuration (R115). -/
def initWith (C : Params) (s : State) : Result :=
  if keyReady s && ivReady s then respond 0 (initSession C.taps s)
  else raise .invalidParameter s

/-- `INIT` (R115). -/
def execInit (s : State) : Result := initWith Config.params s

end Sys2Proof.Machine
end

