-- ==== Sys2Proof/Machine/Stream.lean ====
section
/-! DEFINITION. The eight stream commands (spec 42_stream_commands.md R130 to R139), one shared body `STREAM` and a meaning
for each. -/

namespace Sys2Proof.Machine

/-- `STREAM(kind, wide, d)` (R131), its operand bits already in the order of processing. -/
def stream (C : Params) (kind : StreamKind) (bits : List Bool) (s : State) : Result :=
  if streamAccepted kind s.phase then
    let done := streamSteps C.taps (gateSel kind C.authPolicy) bits s.engine
    respond (streamData kind done.1) (setPhase (streamPhase kind) (setEngine done.2 s))
  else raise .protocolError s

/-- `ADB bit` (R132). -/
def execAdb (b : Bool) (s : State) : Result := stream Config.params .ad [b] s

/-- `ADBY byte` (R133). -/
def execAdby (byte : Byte) (s : State) : Result := stream Config.params .ad (byteBits byte) s

/-- `ENCB bit` (R134). -/
def execEncb (b : Bool) (s : State) : Result := stream Config.params .enc [b] s

/-- `ENCBY byte` (R135). -/
def execEncby (byte : Byte) (s : State) : Result := stream Config.params .enc (byteBits byte) s

/-- `DECB bit` (R136). -/
def execDecb (b : Bool) (s : State) : Result := stream Config.params .dec [b] s

/-- `DECBY byte` (R137). -/
def execDecby (byte : Byte) (s : State) : Result := stream Config.params .dec (byteBits byte) s

/-- `MACB bit` (R138). -/
def execMacb (b : Bool) (s : State) : Result := stream Config.params .mac [b] s

/-- `MACBY byte` (R139). -/
def execMacby (byte : Byte) (s : State) : Result := stream Config.params .mac (byteBits byte) s

end Sys2Proof.Machine
end

