-- ==== Sys2Proof/Machine/Dispatch.lean ====
section
/-! DEFINITION. The dispatch: one arm per command, each one call of its meaning. -/

namespace Sys2Proof.Machine

/-- Executes one command on the state (spec 00_scope.md R14). -/
def exec (i : Instr) (s : State) : Host.Outcome State Fault Refusal :=
  match i with
  | .nop => Sys2Proof.Machine.execNop s
  | .rst => Sys2Proof.Machine.execRst s
  | .ldk k byte => Sys2Proof.Machine.execLdk k byte s
  | .ldiv k byte => Sys2Proof.Machine.execLdiv k byte s
  | .init => Sys2Proof.Machine.execInit s
  | .adb bit => Sys2Proof.Machine.execAdb bit s
  | .adby byte => Sys2Proof.Machine.execAdby byte s
  | .encb bit => Sys2Proof.Machine.execEncb bit s
  | .encby byte => Sys2Proof.Machine.execEncby byte s
  | .decb bit => Sys2Proof.Machine.execDecb bit s
  | .decby byte => Sys2Proof.Machine.execDecby byte s
  | .macb bit => Sys2Proof.Machine.execMacb bit s
  | .macby byte => Sys2Proof.Machine.execMacby byte s
  | .fin => Sys2Proof.Machine.execFin s
  | .rdtag k => Sys2Proof.Machine.execRdtag k s
  | .ldxt k byte => Sys2Proof.Machine.execLdxt k byte s
  | .vfy => Sys2Proof.Machine.execVfy s
  | .rdst => Sys2Proof.Machine.execRdst s

end Sys2Proof.Machine
end

