-- ==== Sys2Proof/Machine/Port.lean ====
section
/-! DEFINITION. The command and response port, one sample of its input pins at a time (spec 30_encoding.md R70;
70_reset_and_hazards.md R220 to R222), and the execution of an accepted word (R76, 00_scope.md R14). -/

namespace Sys2Proof.Machine

/-- `cmd_ready`: 0 from the acceptance of a command until its response has been taken (R70). -/
def cmdReady (s : State) : Bool := s.rsp.isNone

/-- The word held back by this sample, if any. -/
def setStalled (w : Option Word) (s : State) : State := { s with stalled := w }

/-- What is left of the host's samples. -/
def setInputs (ps : List PortInput) (s : State) : State := { s with inputs := ps }

/-- `rst_n` low: the reset state; a command in flight is abandoned and its response never given (70_reset_and_hazards.md
R220, R222). What the host drives and has taken is not the core's. -/
def hardwareReset (s : State) : State := setStalled none (setRsp none (resetRegisters s))

/-- The host changes the offered word while it is held back (93_implementation_defined.md U14). DESIGN CHOICE, log entry 7: the
word may not change either between the last sample in which `cmd_ready` is 0 and the first in which it is 1. The spec does not
say which sample's `cmd_ready` counts. -/
def changesStalledCommand (p : PortInput) (s : State) : Bool :=
  match s.stalled with
  | some w => p.cmdValid && p.cmd != w
  | none => false

/-- The word this sample offers (R70). -/
def offered (p : PortInput) : Option Word := if p.cmdValid then some p.cmd else none

/-- A sample taken while a response is offered: `rsp_ready` takes it, and a command offered meanwhile is held back since
`cmd_ready` is 0 (R70). -/
def responsePhase (p : PortInput) (r : Word) (s : State) : State :=
  let t := setStalled (offered p) s
  if p.rspReady then { t with rsp := none, taken := t.taken ++ [r] } else t

/-- The answer to a word that is no command: `IllegalCommand`, and no state changes (30_encoding.md R76; 60_exceptions.md
R195). -/
def rejectWord (s : State) : Result := raise .illegalCommand s

/-- The sample that offers exactly the word `w`. -/
def offerSample (w : Word) : PortInput := { rstN := true, cmdValid := true, cmd := w, rspReady := false }

/-- The port as the host finds it when it may offer a command at once: no response outstanding, nothing held back, and
`w` offered in the very next sample. -/
def placeCommand (w : Word) (s : State) : State :=
  setInputs (offerSample w :: s.inputs) (setStalled none (setRsp none s))

/-- Executes an accepted word: a command, or the answer to an illegal word (30_encoding.md R76). -/
def runWord (w : Word) (s : State) : Result :=
  match decode w with
  | .command i => exec i s
  | .illegal _ => rejectWord s

/-- One sample of the pins. In this order: `rst_n` low resets (70_reset_and_hazards.md R220, R222); a changed word that was
being held back is refused, whether or not `cmd_ready` is 1 in this sample (93_implementation_defined.md U14; DESIGN CHOICE, log
entry 7); while a response is offered only it can be taken; else an offered command is accepted and executed; else nothing
happens (60_exceptions.md R206). -/
def samplePins (p : PortInput) (s : State) : Result :=
  if !p.rstN then .next (hardwareReset s)
  else if changesStalledCommand p s then .refused .commandChangedWhileStalled
  else
    match s.rsp with
    | some r => .next (responsePhase p r s)
    | none =>
      if p.cmdValid then runWord p.cmd (setStalled none s)
      else .next (setStalled none s)

/-- The host's next sample is taken, or nothing happens at all when the host drives nothing more (60_exceptions.md R206;
log entry 6). -/
def nextSample (s : State) : Result :=
  match s.inputs with
  | [] => .next s
  | p :: ps => samplePins p (setInputs ps s)

end Sys2Proof.Machine
end

