-- ==== Sys2Proof/Machine/Step.lean ====
section
/-! DEFINITION. One step of the machine: one sample of the port's input pins, in which an accepted command is executed whole
(spec 30_encoding.md R70, 00_scope.md R14). -/

namespace Sys2Proof.Machine

/-- One step: the next sample of the pins (log entries 5 and 6). -/
def step (s : State) : Host.Outcome State Fault Refusal := nextSample s

/-- The state whose very next step accepts and executes the word (log entry 6). -/
def State.withFetchWord (s : State) (nbits w : Nat) : State := placeCommand (tableWord nbits w) s

end Sys2Proof.Machine
end

