-- ==== Sys2Proof/Machine/Configured.lean ====
section
/-! DEFINITION. The command set under a given configuration, for statements that range over every `TAPS` and every
`AUTH_POLICY` (spec 00_scope.md R6, R8, R14) and for tests under `TV1`; `exec` is the case `Config.params`. -/

namespace Sys2Proof.Machine

/-- One command under the configuration `C`. Only `INIT`, the stream commands and `FIN` read it. -/
def execWith (C : Params) (i : Instr) (s : State) : Result :=
  match i with
  | .nop => execNop s
  | .rst => execRst s
  | .ldk k byte => execLdk k byte s
  | .ldiv k byte => execLdiv k byte s
  | .init => initWith C s
  | .adb b => stream C .ad [b] s
  | .adby byte => stream C .ad (byteBits byte) s
  | .encb b => stream C .enc [b] s
  | .encby byte => stream C .enc (byteBits byte) s
  | .decb b => stream C .dec [b] s
  | .decby byte => stream C .dec (byteBits byte) s
  | .macb b => stream C .mac [b] s
  | .macby byte => stream C .mac (byteBits byte) s
  | .fin => finWith C s
  | .rdtag k => execRdtag k s
  | .ldxt k byte => execLdxt k byte s
  | .vfy => execVfy s
  | .rdst => execRdst s

/-- One command word under the configuration `C`: the total function of 00_scope.md R14. -/
def runWordWith (C : Params) (w : Word) (s : State) : Result :=
  match decode w with
  | .command i => execWith C i s
  | .illegal _ => raise .illegalCommand s

end Sys2Proof.Machine
end

