-- ==== Sys2Proof/Machine/Facade.lean ====
section
/-! DEFINITION. The host's pseudo-commands and façade operations as command sequences (spec 30_encoding.md R79;
44_facade_macros.md R170 to R175). They are no instructions of the core; `C` is the core's configuration. -/

namespace Sys2Proof.Machine

/-- How a host's sequence of commands ends. -/
inductive CallResult (α : Type) where
  /-- Every response was OK; `a` is what the host made of them. -/
  | done (a : α) (s : State)
  /-- A response carried the fault code `err`, which ends the operation (44_facade_macros.md), or the host's own check
  failed before any command. -/
  | failed (err : BitVec 4) (s : State)
  /-- The core gave no response. Never taken: every command is answered (30_encoding.md R70). -/
  | unanswered
  deriving DecidableEq, Repr

/-- Goes on with the next part of a sequence. -/
def andThen {α β : Type} (r : CallResult α) (f : α → State → CallResult β) : CallResult β :=
  match r with
  | .done a s => f a s
  | .failed e s => .failed e s
  | .unanswered => .unanswered

/-- `R[15:12]` (30_encoding.md R72). -/
def errField (r : Word) : BitVec 4 := r.extractLsb' 12 4

/-- `R[7:0]` (R72). -/
def dataField (r : Word) : Byte := r.extractLsb' 0 8

/-- One command, its response taken by the host and split. -/
def issue (C : Params) (i : Instr) (s : State) : CallResult Byte :=
  match execWith C i s with
  | .next t =>
    match t.rsp with
    | some r => if errField r = 0 then .done (dataField r) (setRsp none t) else .failed (errField r) (setRsp none t)
    | none => .unanswered
  | .fault _ => .unanswered
  | .refused _ => .unanswered

/-- A sequence of commands, with the data bytes of their responses. -/
def issueAll (C : Params) : List Instr → State → CallResult (List Byte)
  | [], s => .done [] s
  | i :: is, s => andThen (issue C i s) fun b t => andThen (issueAll C is t) fun bs u => .done (b :: bs) u

/-- A buffer filled from index 0 upwards. -/
def indexed (f : BitVec 4 → Byte → Instr) (bytes : List Byte) : List Instr :=
  bytes.mapIdx fun k byte => f (BitVec.ofNat 4 k) byte

/-- `KSB`: the next keystream bit (30_encoding.md R79). -/
def ksb : Instr := .encb false

/-- `KSBY`: the next keystream byte (R79). -/
def ksby : Instr := .encby 0

/-- `LDKEY` (R79). -/
def ldkey (key : List Byte) : List Instr := indexed .ldk key

/-- `LDIVEC` (R79). -/
def ldivec (iv : List Byte) : List Instr := indexed .ldiv iv

/-- `LDTAG` (R79). -/
def ldtag (t : List Byte) : List Instr := indexed .ldxt t

/-- `RDTAG8` (R79). -/
def rdtag8 : List Instr := [.rdtag 0, .rdtag 1, .rdtag 2, .rdtag 3, .rdtag 4, .rdtag 5, .rdtag 6, .rdtag 7]

/-- `NEW(key, iv)`: the host checks the lengths before any command (R170). -/
def newInstance (C : Params) (key iv : List Byte) (s : State) : CallResult Unit :=
  if key.length ≠ 16 ∨ iv.length ≠ 12 then .failed (errCode .invalidParameter) s
  else andThen (issueAll C (.rst :: ldkey key ++ ldivec iv) s) fun _ t => .done () t

/-- The opening of every operation: `INIT`, then the associated data (R171 to R176). -/
def openSession (ad : List Byte) : List Instr := .init :: ad.map .adby

/-- `FIN`, then the tag read out (R171, R172, R174). -/
def closeSession (C : Params) (s : State) : CallResult (List Byte) :=
  andThen (issue C .fin s) fun _ t => issueAll C rdtag8 t

/-- `ENCRYPT(pt, ad) -> (ct, tag)` (R171). -/
def encrypt (C : Params) (pt ad : List Byte) (s : State) : CallResult (List Byte × List Byte) :=
  andThen (issueAll C (openSession ad) s) fun _ t =>
    andThen (issueAll C (pt.map .encby) t) fun ct u =>
      andThen (closeSession C u) fun tg v => .done (ct, tg) v

/-- `DECRYPT(ct, ad) -> (pt, tag)` (R172). -/
def decrypt (C : Params) (ct ad : List Byte) (s : State) : CallResult (List Byte × List Byte) :=
  andThen (issueAll C (openSession ad) s) fun _ t =>
    andThen (issueAll C (ct.map .decby) t) fun pt u =>
      andThen (closeSession C u) fun tg v => .done (pt, tg) v

/-- `DECRYPT_AND_VERIFY(ct, tag, ad) -> pt | AuthenticationFailure`: the recovered bytes are released only after `VFY`
answers OK (R173). -/
def decryptAndVerify (C : Params) (ct tg ad : List Byte) (s : State) : CallResult (List Byte) :=
  if tg.length ≠ 8 then .failed (errCode .invalidParameter) s
  else
    andThen (issueAll C (openSession ad) s) fun _ t =>
      andThen (issueAll C (ct.map .decby) t) fun buf u =>
        andThen (issueAll C (.fin :: ldtag tg ++ [.vfy]) u) fun _ v => .done buf v

/-- `COMPUTE_TAG(ct, ad) -> tag` (R174). -/
def computeTag (C : Params) (ct ad : List Byte) (s : State) : CallResult (List Byte) :=
  andThen (issueAll C (openSession ad ++ ct.map .macby) s) fun _ t => closeSession C t

/-- `VERIFY_THEN_DECRYPT(ct, tag, ad)`, the two-pass form (R175). -/
def verifyThenDecrypt (C : Params) (ct tg ad : List Byte) (s : State) : CallResult (List Byte) :=
  andThen (issueAll C (openSession ad ++ ct.map .macby ++ .fin :: ldtag tg ++ [.vfy]) s) fun _ t =>
    andThen (issueAll C (openSession ad) t) fun _ u => issueAll C (ct.map .decby) u

end Sys2Proof.Machine
end

