-- ==== Sys2Proof/WellFormed.lean ====
section
/-! DEFINITION. The well-formedness of a tap record (spec 00_scope.md R6 and R7). A command needs no such check: the types
of `Instr`'s fields hold exactly the operands of the 13342 legal words of 30_encoding.md R76 (log entry 11). -/

namespace Sys2Proof

/-- R7 (a): exactly seven `LFSR` taps, distinct (R6). -/
def Taps.sevenLfsrTaps (T : Taps) : Bool :=
  T.lfsrTaps.length == 7 && decide T.lfsrTaps.Nodup

/-- R7 (b): the `LFSR` taps reach from bit 0 to bit 127. -/
def Taps.lfsrTapsSpan (T : Taps) : Bool :=
  T.lfsrTaps.contains 0 && T.lfsrTaps.contains 127

/-- R7 (c), with R6: some distinct linear `NFSR` taps, at least two AND pairs, each of two distinct positions. -/
def Taps.nfsrTermsPresent (T : Taps) : Bool :=
  !T.nfsrLinTaps.isEmpty && decide T.nfsrLinTaps.Nodup && decide (2 ≤ T.nfsrAndPairs.length)
    && T.nfsrAndPairs.all fun p => p.1 != p.2

/-- R6: a monomial is a non-empty set of taps. -/
def Monomial.wellFormed (m : Monomial) : Bool :=
  !List.isEmpty m && decide (List.Nodup m)

/-- R7 (d): `h` has a monomial of one tap, one of two or more, and taps on both registers. -/
def Taps.hTermsPresent (T : Taps) : Bool :=
  T.hMonomials.all Monomial.wellFormed
    && T.hMonomials.any (fun m => m.length == 1) && T.hMonomials.any (fun m => decide (2 ≤ m.length))
    && T.hMonomials.flatten.any (fun t => t.reg == .L) && T.hMonomials.flatten.any (fun t => t.reg == .N)

/-- R7 (e): the pre-output function has monomials, and its set of taps is not that of `h`. -/
def Taps.preTermsDistinct (T : Taps) : Bool :=
  T.preMonomials.all Monomial.wellFormed && !T.preMonomials.isEmpty
    && !(T.preMonomials.flatten.all (T.hMonomials.flatten.contains ·)
      && T.hMonomials.flatten.all (T.preMonomials.flatten.contains ·))

/-- A well-formed `TAPS` record (R6, R7). No rule needs it to be total, so `Config.params` is not assumed to meet it
(R7: "A model may drop the check"; log entry 2). -/
def Taps.wellFormed (T : Taps) : Bool :=
  T.sevenLfsrTaps && T.lfsrTapsSpan && T.nfsrTermsPresent && T.hTermsPresent && T.preTermsDistinct

end Sys2Proof
end

