-- ==== Sys2Proof/Safety.lean ====
section
/-! DEFINITION. The terms claims are stated in: the spec's tables (opcode map, phase table, fault table) as data beside the
machine, its datapath as relations in the shift form of 40_register_pair_and_combiner.md R93, the invariant of 10_state.md R35,
and what a host can see (60_exceptions.md R201). -/

namespace Sys2Proof.Machine

/-! ### The opcode map (30_encoding.md R75) -/

/-- A row of the opcode map: `W` selects it when `W and mask` = `value`. -/
structure OpcodeRow where
  value : Word
  mask : Word
  deriving DecidableEq, Repr

/-- The row of a command, `match` and `mask` as R75 prints them. -/
def rowOf : Instr → OpcodeRow
  | .nop => ⟨0x0000, 0xFFFF⟩
  | .rst => ⟨0x1000, 0xFFFF⟩
  | .ldk _ _ => ⟨0x2000, 0xF000⟩
  | .ldiv _ _ => ⟨0x3000, 0xF000⟩
  | .init => ⟨0x4000, 0xFFFF⟩
  | .adb _ => ⟨0x5000, 0xFFFE⟩
  | .adby _ => ⟨0x5100, 0xFF00⟩
  | .encb _ => ⟨0x6000, 0xFFFE⟩
  | .encby _ => ⟨0x6100, 0xFF00⟩
  | .decb _ => ⟨0x7000, 0xFFFE⟩
  | .decby _ => ⟨0x7100, 0xFF00⟩
  | .macb _ => ⟨0x8000, 0xFFFE⟩
  | .macby _ => ⟨0x8100, 0xFF00⟩
  | .fin => ⟨0x9000, 0xFFFF⟩
  | .rdtag _ => ⟨0xA000, 0xF0FF⟩
  | .ldxt _ _ => ⟨0xB000, 0xF000⟩
  | .vfy => ⟨0xC000, 0xFFFF⟩
  | .rdst => ⟨0xD000, 0xFFFF⟩

/-- The 18 rows of R75. -/
def opcodeRows : List OpcodeRow :=
  [rowOf .nop, rowOf .rst, rowOf (.ldk 0 0), rowOf (.ldiv 0 0), rowOf .init, rowOf (.adb false), rowOf (.adby 0),
    rowOf (.encb false), rowOf (.encby 0), rowOf (.decb false), rowOf (.decby 0), rowOf (.macb false), rowOf (.macby 0),
    rowOf .fin, rowOf (.rdtag 0), rowOf (.ldxt 0 0), rowOf .vfy, rowOf .rdst]

/-- `W` selects the row (R75). -/
def OpcodeRow.selectedBy (r : OpcodeRow) (w : Word) : Prop := w &&& r.mask = r.value

/-! ### The phase table (10_state.md R30) and the fault table (60_exceptions.md R196, R197) -/

/-- The cell of the phase table: the next phase when the command is accepted, `none` for `P`. -/
def nextPhase (i : Instr) (p : Phase) : Option Phase :=
  match i with
  | .nop | .rdst => some p
  | .rst => some .uninit
  | .ldk _ _ | .ldiv _ _ => if p = .uninit then some p else none
  | .init => some .initialized
  | .adb _ | .adby _ => if p = .initialized ∨ p = .absorbingAd then some .absorbingAd else none
  | .encb _ | .encby _ | .decb _ | .decby _ | .macb _ | .macby _ =>
    if p = .uninit ∨ p = .finalized then none else some .generating
  | .fin => if p = .uninit ∨ p = .finalized then none else some .finalized
  | .ldxt _ _ => if p = .uninit then none else some p
  | .rdtag _ | .vfy => if p = .finalized then some p else none

/-- The `InvalidParameter` column of R197. -/
def badParameter (i : Instr) (s : State) : Bool :=
  match i with
  | .nop | .rst | .rdst | .ldk _ _ | .fin => false
  | .adb _ | .adby _ | .encb _ | .encby _ | .decb _ | .decby _ | .macb _ | .macby _ => false
  | .ldiv k _ => decide (12 ≤ k.toNat)
  | .init => s.kv != 0xFFFF || s.ivv != 0xFFF
  | .rdtag k | .ldxt k _ => decide (8 ≤ k.toNat)
  | .vfy => s.xtv != 0xFF

/-- The `AuthenticationFailure` column of R197. -/
def tagMismatch (i : Instr) (s : State) : Bool := i == .vfy && s.xtag != s.engine.acc.setWidth 64

/-- The fault a command reports, `ok` for none: the first that applies in the order of R196. -/
def faultOf (i : Instr) (s : State) : ErrCode :=
  if nextPhase i s.phase = none then .protocolError
  else if badParameter i s then .invalidParameter
  else if tagMismatch i s then .authenticationFailure
  else .ok

/-! ### Responses (30_encoding.md R72, R73) -/

/-- A word the core may answer: bits 11 to 8 zero, a code it returns, no data beside a fault. -/
def ResponseLegal (r : Word) : Prop :=
  r.extractLsb' 8 4 = 0 ∧ errField r ∈ [0#4, 1#4, 2#4, 4#4, 5#4] ∧ (errField r ≠ 0 → dataField r = 0)

/-- The command was answered OK with this data byte. -/
def AnsweredOk (t : State) (data : Byte) : Prop := t.rsp = some (0#8 ++ data)

/-- The command was answered with this fault code and no data. -/
def AnsweredFault (t : State) (code : BitVec 4) : Prop := t.rsp = some (code ++ 0#12)

/-! ### The datapath as relations, in the shift form of 40_register_pair_and_combiner.md R93 and R96 -/

/-- `b << n` as a 128-bit value. -/
def bitAt (b : Bool) (n : Nat) : Reg := (BitVec.ofBool b).setWidth 128 <<< n

/-- `(r >> 1) | (b << 127)` (R93, R96). -/
def shr1 (r : Reg) (b : Bool) : Reg := (r >>> 1) ||| bitAt b 127

/-- `e'` is `e` after one `STEP` (R97) with keystream bit `y` and gate bit `g`. -/
def StepRel (T : Taps) (y g : Bool) (e e' : Engine) : Prop :=
  e'.lfsr = shr1 e.lfsr (fl T e.lfsr) ∧ e'.nfsr = shr1 e.nfsr (fn T e.lfsr e.nfsr) ∧ y = ks T e'.lfsr e'.nfsr
    ∧ e'.sr = shr1 e.sr (pre T e'.lfsr e'.nfsr) ∧ e'.acc = (if g then e.acc ^^^ e.sr else e.acc)

/-- `e'` is `e` after `BLIND(i)` (41_setup_and_init.md R114). -/
def BlindRel (T : Taps) (i : Nat) (e e' : Engine) : Prop :=
  let l := shr1 e.lfsr (fl T e.lfsr)
  let n := shr1 e.nfsr (fn T e.lfsr e.nfsr)
  let y := ks T l n
  e'.lfsr = l ^^^ bitAt y 127 ∧ e'.nfsr = n ^^^ bitAt y 127 ∧ e'.acc = e.acc
    ∧ e'.sr = if i < 192 then e.sr else shr1 e.sr (pre T e'.lfsr e'.nfsr)

/-- Every tap of the monomial reads 1 (00_scope.md R6, R11; 40 R94, R95). -/
def monomialReads (l n : Reg) (m : Monomial) : Bool :=
  m.all fun t =>
    match t with
    | ⟨.L, i⟩ => l.getLsbD i
    | ⟨.N, i⟩ => n.getLsbD i

/-- `n` register clocks (R93). -/
def clocks (T : Taps) : Nat → Engine → Engine
  | 0, e => e
  | n + 1, e => clocks T n (clock T e)

/-- The keystream bits of the next `n` clocks, the first first. -/
def keystream (T : Taps) : Nat → Engine → List Bool
  | 0, _ => []
  | n + 1, e => clockBit T e :: keystream T n (clock T e)

/-! ### Stream operands, bit-wide or byte-wide -/

/-- The operand of a stream command: one bit or one byte. -/
inductive DataUnit where
  | bit (b : Bool)
  | byte (d : Byte)
  deriving DecidableEq, Repr

/-- How many steps its command makes. -/
def DataUnit.steps : DataUnit → Nat
  | .bit _ => 1
  | .byte _ => 8

/-- The unit of the same width that a response data byte holds. -/
def DataUnit.reply : DataUnit → Byte → DataUnit
  | .bit _, r => .bit (r.getLsbD 0)
  | .byte _, r => .byte r

/-- `ADB` or `ADBY`. -/
def adCommand : DataUnit → Instr
  | .bit b => .adb b
  | .byte d => .adby d

/-- `ENCB` or `ENCBY`. -/
def encCommand : DataUnit → Instr
  | .bit b => .encb b
  | .byte d => .encby d

/-- `DECB` or `DECBY`. -/
def decCommand : DataUnit → Instr
  | .bit b => .decb b
  | .byte d => .decby d

/-- `MACB` or `MACBY`. -/
def macCommand : DataUnit → Instr
  | .bit b => .macb b
  | .byte d => .macby d

/-- The stream commands with their kind and operand (42_stream_commands.md R130). -/
def streamOperand : Instr → Option (StreamKind × DataUnit)
  | .adb b => some (.ad, .bit b)
  | .adby d => some (.ad, .byte d)
  | .encb b => some (.enc, .bit b)
  | .encby d => some (.enc, .byte d)
  | .decb b => some (.dec, .bit b)
  | .decby d => some (.dec, .byte d)
  | .macb b => some (.mac, .bit b)
  | .macby d => some (.mac, .byte d)
  | _ => none

/-- A session over associated data and then data: `INIT`, the `AD` commands, the data commands; what the data commands
answered, and the state after them (42_stream_commands.md R141). -/
def session (C : Params) (ad : List DataUnit) (data : List Instr) (s : State) : CallResult (List Byte) :=
  andThen (issueAll C (.init :: ad.map adCommand) s) fun _ t => issueAll C data t

/-- The two sessions agree: the same accumulator, and the same tag after `FIN` (42_stream_commands.md R142, R143). -/
def SameTag (C : Params) (s u : State) : Prop :=
  s.engine.acc = u.engine.acc
    ∧ ∀ (t v : State) (a b : Byte), issue C .fin s = .done a t → issue C .fin u = .done b v → tag t = tag v

/-- The byte command on `d` is eight bit commands on `d[7]`, ..., `d[0]` (20_memory.md R59): it leaves the state they leave,
and bit `7 - j` of its response is the result bit of the `j`-th. -/
def ByteIsEightBits (byteCmd : Byte → Instr) (bitCmd : Bool → Instr) (d : Byte) (s : State) : Prop :=
  ∃ (st : Nat → State) (r : Byte), st 0 = s
    ∧ (∀ j, j < 8 → exec (bitCmd (d.getLsbD (7 - j))) (st j) = .next (st (j + 1)))
    ∧ (∀ j, j < 8 → AnsweredOk (st (j + 1)) (0#7 ++ BitVec.ofBool (r.getLsbD (7 - j))))
    ∧ exec (byteCmd d) s = .next { st 8 with rsp := some (0#8 ++ r) }

/-- The commands whose execution R33 lists as writing the register pair, `SR` and `ACC`. -/
def writesEngine (i : Instr) : Bool := i == .init || i == .fin || i == .rst || (streamOperand i).isSome

/-! ### The invariant (10_state.md R35) -/

/-- What every step keeps. -/
structure State.Inv (s : State) : Prop where
  /-- R35 (b): outside `uninit` the key and the IV are completely loaded. -/
  instanceLoaded : s.phase ≠ .uninit → s.kv = 0xFFFF ∧ s.ivv = 0xFFF
  /-- R35 (d). -/
  verdictExclusive : (s.vok && s.vfail) = false
  /-- R35 (e), and a verdict is about a whole expected tag (43_finalize_and_tag.md R156). -/
  verdictFinal : s.vok = true ∨ s.vfail = true → s.phase = .finalized ∧ s.xtv = 0xFF
  /-- A verdict never outlives a change of what it compares (43 R154). -/
  verdictTrue : (s.vok = true → s.xtag = tag s) ∧ (s.vfail = true → s.xtag ≠ tag s)
  /-- Before the first `INIT` no cipher register and no expected tag has been touched (44_facade_macros.md R170). -/
  uninitClean : s.phase = .uninit → s.engine = ⟨0, 0, 0, 0⟩ ∧ s.xtag = 0 ∧ s.xtv = 0
  /-- Bytes of a staging buffer that nothing has written hold 0 (93_implementation_defined.md U13). -/
  unwrittenZero : (∀ k, k < 16 → s.kv.getLsbD k = false → bufRead s.key k = 0)
    ∧ (∀ k, k < 12 → s.ivv.getLsbD k = false → bufRead s.iv k = 0)
    ∧ (∀ k, k < 8 → s.xtv.getLsbD k = false → bufRead s.xtag k = 0)
  /-- Every response is one the core may give (30_encoding.md R72, R73). -/
  responsesLegal : (∀ r, s.rsp = some r → ResponseLegal r) ∧ ∀ r ∈ s.taken, ResponseLegal r

/-! ### What the host can see (60_exceptions.md R201) -/

/-- The two states look alike to the host: the fields that `RDST` shows, the phase table consults and the port offers. -/
structure SameVisible (s u : State) : Prop where
  phase : s.phase = u.phase
  kv : s.kv = u.kv
  ivv : s.ivv = u.ivv
  xtv : s.xtv = u.xtv
  vok : s.vok = u.vok
  vfail : s.vfail = u.vfail
  rsp : s.rsp = u.rsp

/-- A command that returns keystream, XORed with its operand. -/
def usesKeystream (i : Instr) : Prop :=
  ∃ d, streamOperand i = some (.enc, d) ∨ streamOperand i = some (.dec, d)

/-! ### The port over whole transactions (30_encoding.md R70, 00_scope.md R16) -/

/-- The response to each word of a sequence, as 00_scope.md R14 and R16 define the observation. -/
def observe : List Word → State → Option (List Word × State)
  | [], s => some ([], s)
  | w :: ws, s =>
    match runWord w s with
    | .next t =>
      match t.rsp with
      | some r => (observe ws (setRsp none t)).map fun p => (r :: p.1, p.2)
      | none => none
    | _ => none

/-- The samples of a host that offers each word once and then takes its response. -/
def transactions (ws : List Word) : List PortInput :=
  ws.flatMap fun w => [offerSample w, { rstN := true, cmdValid := false, cmd := 0, rspReady := true }]

end Sys2Proof.Machine
end

