-- ==== Sys2Proof/Certificates/Slice0/Obligations.lean ====
section
/-! DEFINITION. The statements for the provers. Each docstring names the rule of spec/ it comes from. -/

open Sys2Proof Sys2Proof.Machine

/-! ### Encoding -/

/-- 30_encoding.md R71, R74, R75: the word of a command decodes to that command, every operand at every value. -/
def Obligations.DecodeOfEncode : Prop := ∀ i : Instr, decode (encode i) = .command i

/-- R71, R76: a word that decodes has no bit the command does not give, so each command has one word. -/
def Obligations.EncodeOfDecode : Prop := ∀ (w : Word) (i : Instr), decode w = .command i → encode i = w

/-- R75: a word decodes to a command of a row exactly when it selects that row, and no word selects two rows. -/
def Obligations.DecoderFollowsOpcodeMap : Prop :=
  (∀ (w : Word) (i : Instr), decode w = .command i → rowOf i ∈ opcodeRows ∧ (rowOf i).selectedBy w)
    ∧ (∀ (w : Word) (r : OpcodeRow), r ∈ opcodeRows → r.selectedBy w → ∃ i, decode w = .command i ∧ rowOf i = r)
    ∧ opcodeRows.length = 18
    ∧ ∀ (w : Word) (r q : OpcodeRow), r ∈ opcodeRows → q ∈ opcodeRows → r.selectedBy w → q.selectedBy w → r = q

/-- R76: the five classes of illegal words, exactly. -/
def Obligations.IllegalWordClasses : Prop :=
  ∀ w : Word,
    let op := (w >>> 12).toNat
    let a := (w >>> 8 &&& 0xF).toNat
    let d := (w &&& 0xFF).toNat
    (decode w = .illegal .reservedOpcode ↔ op = 0xE ∨ op = 0xF)
      ∧ (decode w = .illegal .operandsNotZero ↔ op ∈ [0, 1, 4, 9, 0xC, 0xD] ∧ (a ≠ 0 ∨ d ≠ 0))
      ∧ (decode w = .illegal .reservedWidth ↔ op ∈ [5, 6, 7, 8] ∧ 2 ≤ a)
      ∧ (decode w = .illegal .bitOperandTooWide ↔ op ∈ [5, 6, 7, 8] ∧ a = 0 ∧ d / 2 ≠ 0)
      ∧ (decode w = .illegal .tagReadDataNotZero ↔ op = 0xA ∧ d ≠ 0)

/-- 95_test_vectors.md V19, 30_encoding.md R78: words written out there decode to the commands they stand for. -/
def Obligations.DecodeVectors : Prop :=
  decode 0x0000 = .command .nop ∧ decode 0x1000 = .command .rst ∧ decode 0x232A = .command (.ldk 3 0x2A)
    ∧ decode 0x3B0B = .command (.ldiv 11 0x0B) ∧ decode 0x4000 = .command .init ∧ decode 0x5001 = .command (.adb true)
    ∧ decode 0x6174 = .command (.encby 0x74) ∧ decode 0x71B2 = .command (.decby 0xB2)
    ∧ decode 0x8000 = .command (.macb false) ∧ decode 0x9000 = .command .fin ∧ decode 0xAF00 = .command (.rdtag 15)
    ∧ decode 0xB8FF = .command (.ldxt 8 0xFF) ∧ decode 0xC000 = .command .vfy ∧ decode 0xD000 = .command .rdst
    ∧ decode 0xF123 = .illegal .reservedOpcode ∧ decode 0x4100 = .illegal .operandsNotZero
    ∧ decode 0x70FE = .illegal .bitOperandTooWide ∧ decode 0x8F00 = .illegal .reservedWidth
    ∧ decode 0xA7FF = .illegal .tagReadDataNotZero

/-! ### Setup commands -/

/-- 41_setup_and_init.md R110. -/
def Obligations.NopOnlyAnswers : Prop :=
  encode .nop = 0x0000 ∧ ∀ s : State, exec .nop s = .next { s with rsp := some 0x0000 }

/-- R111, 70_reset_and_hazards.md R220: `RST` leaves the reset state, whatever the phase, and is answered OK. The model's own
fields `stalled`, `inputs`, `taken` are no registers and stay (log entries 6, 7, 8). -/
def Obligations.RstLeavesResetState : Prop :=
  encode .rst = 0x1000 ∧ ∀ s : State, exec .rst s = .next
    { State.reset with rsp := some 0x0000, stalled := s.stalled, inputs := s.inputs, taken := s.taken }

/-- R112: key bit `8k + j` is bit `j` of key byte `k`; `KV[k]` is set; nothing else changes; and `ProtocolError` outside
`UNINIT`. -/
def Obligations.LdkWritesKeyByte : Prop :=
  ∀ (k : BitVec 4) (byte : Byte) (s : State),
    encode (.ldk k byte) = 0x2#4 ++ k ++ byte
    ∧ (s.phase = .uninit → ∃ t, exec (.ldk k byte) s = .next t
      ∧ t = { s with key := t.key, kv := t.kv, rsp := some 0x0000 }
      ∧ (∀ i, i < 128 → t.key.getLsbD i = if i / 8 = k.toNat then byte.getLsbD (i % 8) else s.key.getLsbD i)
      ∧ ∀ j, j < 16 → t.kv.getLsbD j = (decide (j = k.toNat) || s.kv.getLsbD j))
    ∧ (s.phase ≠ .uninit → exec (.ldk k byte) s = .next { s with rsp := some 0x4000 })

/-- R113, with the fault order of 60_exceptions.md R196. -/
def Obligations.LdivWritesIvByte : Prop :=
  ∀ (k : BitVec 4) (byte : Byte) (s : State),
    encode (.ldiv k byte) = 0x3#4 ++ k ++ byte
    ∧ (s.phase = .uninit → k.toNat < 12 → ∃ t, exec (.ldiv k byte) s = .next t
      ∧ t = { s with iv := t.iv, ivv := t.ivv, rsp := some 0x0000 }
      ∧ (∀ i, i < 96 → t.iv.getLsbD i = if i / 8 = k.toNat then byte.getLsbD (i % 8) else s.iv.getLsbD i)
      ∧ ∀ j, j < 12 → t.ivv.getLsbD j = (decide (j = k.toNat) || s.ivv.getLsbD j))
    ∧ (s.phase = .uninit → 12 ≤ k.toNat → exec (.ldiv k byte) s = .next { s with rsp := some 0x1000 })
    ∧ (s.phase ≠ .uninit → exec (.ldiv k byte) s = .next { s with rsp := some 0x4000 })

/-- R114, R115, 20_memory.md R53: with both buffers full `INIT` is accepted in every phase; it loads the IV under 32 ones
and the key, clears `ACC`, makes the 320 blind clocks in order, and clears the expected tag and the verdict; `KEY`, `KV`,
`IV`, `IVV` stay. Otherwise `InvalidParameter` and nothing has been written. -/
def Obligations.InitRunsBlindClocks : Prop :=
  encode .init = 0x4000 ∧ ∀ s : State,
    (s.kv = 0xFFFF → s.ivv = 0xFFF → ∃ e : Nat → Engine,
      (∀ i, i < 128 → (e 0).lfsr.getLsbD i = if i < 96 then s.iv.getLsbD i else true)
        ∧ (e 0).nfsr = s.key ∧ (e 0).sr = s.engine.sr ∧ (e 0).acc = 0
        ∧ (∀ i, i < 320 → BlindRel Config.params.taps i (e i) (e (i + 1)))
        ∧ exec .init s = .next
          { s with
            engine := e 320, xtag := 0, xtv := 0, vok := false, vfail := false, phase := .initialized, rsp := some 0x0000 })
    ∧ (s.kv ≠ 0xFFFF ∨ s.ivv ≠ 0xFFF → exec .init s = .next { s with rsp := some 0x1000 })

/-- R115 corner case (a): after `INIT`, `SR[k]` is the pre-output bit of blind clock `192 + k`, whatever `SR` held. -/
def Obligations.InitFillsSr : Prop :=
  ∀ (C : Params) (s t : State), s.kv = 0xFFFF → s.ivv = 0xFFF → execWith C .init s = .next t →
    ∀ k, k < 128 → t.engine.sr.getLsbD k =
      pre C.taps (blindClocks C.taps (193 + k) (loadedEngine s)).lfsr (blindClocks C.taps (193 + k) (loadedEngine s)).nfsr

/-- R115 corner case (b), 10_state.md R34: two sessions from the same key and IV start alike, whatever went before. -/
def Obligations.InitForgetsThePast : Prop :=
  ∀ (C : Params) (s u t v : State), s.key = u.key → s.iv = u.iv → s.kv = 0xFFFF → s.ivv = 0xFFF → u.kv = 0xFFFF →
    u.ivv = 0xFFF → execWith C .init s = .next t → execWith C .init u = .next v → t.engine = v.engine

/-- 20_memory.md R61: `INIT` after `INIT` and `RST` after `RST` leave the state of the first; `NOP`, `RDTAG` and `RDST` write
nothing. -/
def Obligations.IdempotentCommands : Prop :=
  (∀ s t : State, s.kv = 0xFFFF → s.ivv = 0xFFF → exec .init s = .next t → exec .init t = .next t)
    ∧ (∀ s t : State, exec .rst s = .next t → exec .rst t = .next t)
    ∧ ∀ (i : Instr) (s t : State), i = .nop ∨ i = .rdst ∨ (∃ k, i = .rdtag k) → exec i s = .next t →
      t = { s with rsp := t.rsp } ∧ exec i t = .next t

/-! ### Stream commands -/

/-- 42_stream_commands.md R132, 40_register_pair_and_combiner.md R97. -/
def Obligations.AdbMakesOneStep : Prop :=
  ∀ (b : Bool) (s : State),
    encode (.adb b) = 0x5000 ||| (BitVec.ofBool b).setWidth 16
    ∧ (s.phase = .initialized ∨ s.phase = .absorbingAd → ∃ (y : Bool) (e : Engine),
      StepRel Config.params.taps y b (s.engine) e
        ∧ exec (.adb b) s = .next { s with engine := e, phase := .absorbingAd, rsp := some 0x0000 })
    ∧ (s.phase = .uninit ∨ s.phase = .generating ∨ s.phase = .finalized →
      exec (.adb b) s = .next { s with rsp := some 0x4000 })

/-- R134, R130: the ciphertext bit is `p xor y`; the gate bit is `p` under `PT` and `SRC`, `p xor y` under `CT`. -/
def Obligations.EncbMakesOneStep : Prop :=
  ∀ (p : Bool) (s : State),
    encode (.encb p) = 0x6000 ||| (BitVec.ofBool p).setWidth 16
    ∧ (s.phase = .initialized ∨ s.phase = .absorbingAd ∨ s.phase = .generating → ∃ (y : Bool) (e : Engine),
      StepRel Config.params.taps y (if Config.params.authPolicy = .ct then p ^^ y else p) (s.engine) e
        ∧ exec (.encb p) s = .next
          { s with engine := e, phase := .generating, rsp := some (0#15 ++ BitVec.ofBool (p ^^ y)) })
    ∧ (s.phase = .uninit ∨ s.phase = .finalized → exec (.encb p) s = .next { s with rsp := some 0x4000 })

/-- R136, R130: the plaintext bit is `c xor y`; the gate bit is `c xor y` under `PT`, `c` under `CT` and `SRC`. -/
def Obligations.DecbMakesOneStep : Prop :=
  ∀ (c : Bool) (s : State),
    encode (.decb c) = 0x7000 ||| (BitVec.ofBool c).setWidth 16
    ∧ (s.phase = .initialized ∨ s.phase = .absorbingAd ∨ s.phase = .generating → ∃ (y : Bool) (e : Engine),
      StepRel Config.params.taps y (if Config.params.authPolicy = .pt then c ^^ y else c) (s.engine) e
        ∧ exec (.decb c) s = .next
          { s with engine := e, phase := .generating, rsp := some (0#15 ++ BitVec.ofBool (c ^^ y)) })
    ∧ (s.phase = .uninit ∨ s.phase = .finalized → exec (.decb c) s = .next { s with rsp := some 0x4000 })

/-- R138, R130: gate bit `c` under every policy, nothing returned. -/
def Obligations.MacbMakesOneStep : Prop :=
  ∀ (c : Bool) (s : State),
    encode (.macb c) = 0x8000 ||| (BitVec.ofBool c).setWidth 16
    ∧ (s.phase = .initialized ∨ s.phase = .absorbingAd ∨ s.phase = .generating → ∃ (y : Bool) (e : Engine),
      StepRel Config.params.taps y c (s.engine) e
        ∧ exec (.macb c) s = .next { s with engine := e, phase := .generating, rsp := some 0x0000 })
    ∧ (s.phase = .uninit ∨ s.phase = .finalized → exec (.macb c) s = .next { s with rsp := some 0x4000 })

/-- 20_memory.md R59, for the four pairs of stream commands, in every state that accepts them. -/
def Obligations.ByteCommandIsEightBitCommands : Prop :=
  ∀ (d : Byte) (s : State),
    (s.phase = .initialized ∨ s.phase = .absorbingAd → ByteIsEightBits .adby .adb d s)
    ∧ (s.phase = .initialized ∨ s.phase = .absorbingAd ∨ s.phase = .generating →
      ByteIsEightBits .encby .encb d s ∧ ByteIsEightBits .decby .decb d s ∧ ByteIsEightBits .macby .macb d s)

/-- 42 R133, R135, R137, R139, with 20_memory.md R54: the word of a byte-wide stream command, what it answers, the phase it
leaves, and everything outside the engine registers unchanged. -/
def Obligations.ByteCommandAnswers : Prop :=
  (∀ d : Byte, encode (.adby d) = 0x51#8 ++ d ∧ encode (.encby d) = 0x61#8 ++ d ∧ encode (.decby d) = 0x71#8 ++ d
      ∧ encode (.macby d) = 0x81#8 ++ d)
    ∧ ∀ (d K : Byte) (s : State),
    (∀ j, j < 8 → (keystream Config.params.taps 8 s.engine)[j]? = some (K.getLsbD (7 - j))) →
    (s.phase = .initialized ∨ s.phase = .absorbingAd → ∃ e : Engine,
      exec (.adby d) s = .next { s with engine := e, phase := .absorbingAd, rsp := some 0x0000 })
    ∧ (s.phase = .initialized ∨ s.phase = .absorbingAd ∨ s.phase = .generating → ∃ e f g : Engine,
      exec (.encby d) s = .next { s with engine := e, phase := .generating, rsp := some (0#8 ++ (d ^^^ K)) }
        ∧ exec (.decby d) s = .next { s with engine := f, phase := .generating, rsp := some (0#8 ++ (d ^^^ K)) }
        ∧ exec (.macby d) s = .next { s with engine := g, phase := .generating, rsp := some 0x0000 })

/-- 42 R140: the register pair after an accepted stream command or `FIN` is that many register clocks on, whatever the kind
and the operand, under every configuration. -/
def Obligations.RegisterPairIgnoresData : Prop :=
  ∀ (C : Params) (i : Instr) (s t : State), execWith C i s = .next t → nextPhase i s.phase ≠ none →
    (∀ kind d, streamOperand i = some (kind, d) →
      t.engine.lfsr = (clocks C.taps d.steps s.engine).lfsr ∧ t.engine.nfsr = (clocks C.taps d.steps s.engine).nfsr)
    ∧ (i = .fin → t.engine.lfsr = (clocks C.taps 64 s.engine).lfsr ∧ t.engine.nfsr = (clocks C.taps 64 s.engine).nfsr)

/-- R140 over a whole session: two sequences of stream commands with the same number of steps, from states with the same
register pair and `SR`, end with the same register pair and `SR`, whatever the kinds and operands. -/
def Obligations.KeystreamPositionIsStepCount : Prop :=
  ∀ (C : Params) (is js : List (StreamKind × DataUnit)) (iis jjs : List Instr) (s u t v : State) (rs qs : List Byte),
    iis.map streamOperand = is.map some → jjs.map streamOperand = js.map some →
    (is.map fun p => p.2.steps).sum = (js.map fun p => p.2.steps).sum →
    s.engine.lfsr = u.engine.lfsr → s.engine.nfsr = u.engine.nfsr → s.engine.sr = u.engine.sr →
    issueAll C iis s = .done rs t → issueAll C jjs u = .done qs v →
    t.engine.lfsr = v.engine.lfsr ∧ t.engine.nfsr = v.engine.nfsr ∧ t.engine.sr = v.engine.sr

/-- 42 R141: decryption of what encryption answered, after the same associated data and from the same key and IV, returns
the plaintext, under every `AUTH_POLICY`, whatever mix of bit-wide and byte-wide commands. -/
def Obligations.RoundTrip : Prop :=
  ∀ (C : Params) (ad pts : List DataUnit) (s u t : State) (rs : List Byte),
    u.key = s.key → u.iv = s.iv → u.kv = 0xFFFF → u.ivv = 0xFFF →
    session C ad (pts.map encCommand) s = .done rs t →
    let cts := List.zipWith DataUnit.reply pts rs
    ∃ (qs : List Byte) (v : State), session C ad (cts.map decCommand) u = .done qs v
      ∧ cts.length = pts.length ∧ List.zipWith DataUnit.reply cts qs = pts

/-- 42 R142: under `PT` and `CT` the two sessions of R141 end with the same accumulator and, after `FIN`, the same tag;
under `SRC` they do when no keystream bit over the data was 1. -/
def Obligations.EncryptDecryptTagsAgree : Prop :=
  ∀ (C : Params) (ad pts : List DataUnit) (s u t v : State) (rs qs : List Byte),
    u.key = s.key → u.iv = s.iv →
    session C ad (pts.map encCommand) s = .done rs t →
    session C ad ((List.zipWith DataUnit.reply pts rs).map decCommand) u = .done qs v →
    C.authPolicy ≠ .src ∨ List.zipWith DataUnit.reply pts rs = pts → SameTag C t v

/-- 42 R143: the tag-only session over the ciphertext ends with the accumulator and, after `FIN`, the tag of the decryption
session under `CT` and `SRC`, of the encryption session under `CT`, and of both when the data is empty. -/
def Obligations.TagOnlySessionAgrees : Prop :=
  ∀ (C : Params) (ad pts : List DataUnit) (s u w t v x : State) (rs qs ms : List Byte),
    u.key = s.key → u.iv = s.iv → w.key = s.key → w.iv = s.iv →
    session C ad (pts.map encCommand) s = .done rs t →
    session C ad ((List.zipWith DataUnit.reply pts rs).map decCommand) u = .done qs v →
    session C ad ((List.zipWith DataUnit.reply pts rs).map macCommand) w = .done ms x →
    (C.authPolicy ≠ .pt ∨ pts = [] → SameTag C x v) ∧ (C.authPolicy = .ct ∨ pts = [] → SameTag C x t)

/-- 44_facade_macros.md R177, the exact fact behind tamper detection: flipping one operand bit that is gated changes `ACC`
by the value `SR` had before that step, and nothing else of the engine. -/
def Obligations.FlippedBitChangesAccBySr : Prop :=
  ∀ (T : Taps) (g : GateSel) (xs ys : List Bool) (x : Bool) (e : Engine), g ≠ .ks →
    let a := (streamSteps T g (xs ++ x :: ys) e).2
    let b := (streamSteps T g (xs ++ (!x) :: ys) e).2
    a.acc ^^^ b.acc = (streamSteps T g xs e).2.sr ∧ a.lfsr = b.lfsr ∧ a.nfsr = b.nfsr ∧ a.sr = b.sr

/-! ### Finalization, tag, status -/

/-- 43_finalize_and_tag.md R150, R151: 64 steps whose gate bit is the step's own keystream bit. -/
def Obligations.FinMakesSixtyFourSteps : Prop :=
  encode .fin = 0x9000 ∧ ∀ s : State,
    (s.phase = .initialized ∨ s.phase = .absorbingAd ∨ s.phase = .generating → ∃ (y : Nat → Bool) (e : Nat → Engine),
      e 0 = s.engine ∧ (∀ i, i < 64 → StepRel Config.params.taps (y i) (y i) (e i) (e (i + 1)))
        ∧ exec .fin s = .next { s with engine := e 64, phase := .finalized, rsp := some 0x0000 })
    ∧ (s.phase = .uninit ∨ s.phase = .finalized → exec .fin s = .next { s with rsp := some 0x4000 })

/-- 95_test_vectors.md V14, "any TAPS": 64 shifts move the top half of `SR` down, so `SR` advanced on each of the 64 steps
(90_conflicts.md C3). -/
def Obligations.FinMovesSrDown : Prop :=
  ∀ (C : Params) (s t : State), nextPhase .fin s.phase ≠ none → execWith C .fin s = .next t →
    t.engine.sr.extractLsb' 0 64 = s.engine.sr.extractLsb' 64 64

/-- 43 R152. -/
def Obligations.RdtagReturnsTagByte : Prop :=
  ∀ (k : BitVec 4) (s : State),
    encode (.rdtag k) = 0xA#4 ++ k ++ 0#8
    ∧ (s.phase = .finalized → k.toNat < 8 → exec (.rdtag k) s = .next
      { s with rsp := some (0#8 ++ (s.engine.acc >>> (8 * k.toNat)).setWidth 8) })
    ∧ (s.phase = .finalized → 8 ≤ k.toNat → exec (.rdtag k) s = .next { s with rsp := some 0x1000 })
    ∧ (s.phase ≠ .finalized → exec (.rdtag k) s = .next { s with rsp := some 0x4000 })

/-- 43 R154. -/
def Obligations.LdxtWritesExpectedTagByte : Prop :=
  ∀ (k : BitVec 4) (byte : Byte) (s : State),
    encode (.ldxt k byte) = 0xB#4 ++ k ++ byte
    ∧ (s.phase ≠ .uninit → k.toNat < 8 → ∃ t, exec (.ldxt k byte) s = .next t
      ∧ t = { s with xtag := t.xtag, xtv := t.xtv, vok := false, vfail := false, rsp := some 0x0000 }
      ∧ (∀ i, i < 64 → t.xtag.getLsbD i = if i / 8 = k.toNat then byte.getLsbD (i % 8) else s.xtag.getLsbD i)
      ∧ ∀ j, j < 8 → t.xtv.getLsbD j = (decide (j = k.toNat) || s.xtv.getLsbD j))
    ∧ (s.phase ≠ .uninit → 8 ≤ k.toNat → exec (.ldxt k byte) s = .next { s with rsp := some 0x1000 })
    ∧ (s.phase = .uninit → exec (.ldxt k byte) s = .next { s with rsp := some 0x4000 })

/-- 43 R156: the verdict, and the three faults in their order; a mismatch is the one fault that writes, and it writes the
two flags. -/
def Obligations.VfyComparesTags : Prop :=
  encode .vfy = 0xC000 ∧ ∀ s : State,
    (s.phase = .finalized → s.xtv = 0xFF → (∀ i, i < 64 → s.xtag.getLsbD i = s.engine.acc.getLsbD i) →
      exec .vfy s = .next { s with vok := true, vfail := false, rsp := some 0x0000 })
    ∧ (s.phase = .finalized → s.xtv = 0xFF → (∃ i, i < 64 ∧ s.xtag.getLsbD i ≠ s.engine.acc.getLsbD i) →
      exec .vfy s = .next { s with vok := false, vfail := true, rsp := some 0x2000 })
    ∧ (s.phase = .finalized → s.xtv ≠ 0xFF → exec .vfy s = .next { s with rsp := some 0x1000 })
    ∧ (s.phase ≠ .finalized → exec .vfy s = .next { s with rsp := some 0x4000 })

/-- 43 R157 with 10_state.md R29 and R32. -/
def Obligations.RdstReturnsStatus : Prop :=
  encode .rdst = 0xD000 ∧ ∀ s : State, ∃ d : Byte, exec .rdst s = .next { s with rsp := some (0#8 ++ d) }
    ∧ d.extractLsb' 0 3 = (match s.phase with
      | .uninit => 0 | .initialized => 1 | .absorbingAd => 2 | .generating => 3 | .finalized => 4)
    ∧ d.getLsbD 3 = decide (s.kv = 0xFFFF) ∧ d.getLsbD 4 = decide (s.ivv = 0xFFF) ∧ d.getLsbD 5 = decide (s.xtv = 0xFF)
    ∧ d.getLsbD 6 = s.vok ∧ d.getLsbD 7 = s.vfail

/-- 20_memory.md R56, R57, 43 R155: loading eight expected-tag bytes and verifying succeeds exactly when they are the eight
bytes that `RDTAG` returns, in order. -/
def Obligations.VerificationIsByteEquality : Prop :=
  ∀ (C : Params) (tg : List Byte) (s : State), tg.length = 8 → s.phase = .finalized →
    ∃ (rs : List Byte) (t : State), issueAll C rdtag8 s = .done rs t ∧ rs.length = 8
      ∧ (tg = rs → ∃ u, issueAll C (ldtag tg ++ [.vfy]) t = .done (List.replicate 9 0) u ∧ u.vok = true)
      ∧ (tg ≠ rs → ∃ u, issueAll C (ldtag tg ++ [.vfy]) t = .failed 2 u ∧ u.vfail = true)

/-! ### Phases, faults, responses, frames -/

/-- 10_state.md R30: the phase table. -/
def Obligations.PhaseTableHolds : Prop :=
  ∀ (i : Instr) (s t : State), exec i s = .next t →
    (nextPhase i s.phase = none → t = { s with rsp := some 0x4000 })
    ∧ (∀ p, nextPhase i s.phase = some p → t.rsp ≠ some 0x4000
      ∧ (t.rsp.map errField = some 0 → t.phase = p) ∧ (t.rsp.map errField ≠ some 0 → t.phase = s.phase))

/-- 60_exceptions.md R196, R197: which fault each word reports, in the order of priority. -/
def Obligations.FaultTableHolds : Prop :=
  ∀ (w : Word) (s : State), ∃ t, runWord w s = .next t ∧ t.rsp.map errField = some (errCode
    (match decode w with
      | .command i => faultOf i s
      | .illegal _ => .illegalCommand))

/-- 60 R190, R198: a faulting command changes nothing but the response, except the two flags of a failed `VFY`. -/
def Obligations.FaultsChangeNothing : Prop :=
  ∀ (i : Instr) (s t : State), exec i s = .next t → t.rsp.map errField ≠ some 0 →
    (∃ c : BitVec 4, t = { s with rsp := some (c ++ 0#12) })
      ∨ (i = .vfy ∧ t = { s with vok := false, vfail := true, rsp := some 0x2000 })

/-- 30_encoding.md R70, R72, R73: every command is answered, by a response the core may give. -/
def Obligations.EveryCommandIsAnswered : Prop :=
  ∀ (i : Instr) (s : State), ∃ (t : State) (r : Word), exec i s = .next t ∧ t.rsp = some r ∧ ResponseLegal r

/-- 10_state.md R33, column "written by": what each command leaves unchanged. The last clause is the model's own: no command
writes its fields `stalled`, `inputs`, `taken`, which are no registers (log entries 6, 7, 8). -/
def Obligations.OnlyListedCommandsWrite : Prop :=
  ∀ (i : Instr) (s t : State), exec i s = .next t →
    (writesEngine i = false → t.engine = s.engine)
    ∧ ((∀ k b, i ≠ .ldk k b) → i ≠ .rst → t.key = s.key ∧ t.kv = s.kv)
    ∧ ((∀ k b, i ≠ .ldiv k b) → i ≠ .rst → t.iv = s.iv ∧ t.ivv = s.ivv)
    ∧ ((∀ k b, i ≠ .ldxt k b) → i ≠ .init → i ≠ .rst → t.xtag = s.xtag ∧ t.xtv = s.xtv)
    ∧ (streamOperand i = none → i ≠ .init → i ≠ .fin → i ≠ .rst → t.phase = s.phase)
    ∧ ((∀ k b, i ≠ .ldxt k b) → i ≠ .vfy → i ≠ .init → i ≠ .rst → t.vok = s.vok ∧ t.vfail = s.vfail)
    ∧ t.stalled = s.stalled ∧ t.inputs = s.inputs ∧ t.taken = s.taken

/-- 10_state.md R26, R27: after the first `INIT` nothing but a reset changes the key and the IV. -/
def Obligations.KeyAndIvImmutable : Prop :=
  ∀ (i : Instr) (s t : State), s.phase ≠ .uninit → i ≠ .rst → exec i s = .next t →
    t.key = s.key ∧ t.kv = s.kv ∧ t.iv = s.iv ∧ t.ivv = s.ivv

/-- 60_exceptions.md R201: what a command answers, and what it leaves visible, does not depend on `KEY`, `IV`, `SR`,
`ACC[127:64]` or, but for the commands that use them, on the register pair, the tag or `XTAG`. -/
def Obligations.SecretsHaveNoReadPath : Prop :=
  ∀ (i : Instr) (s u t v : State), SameVisible s u →
    (usesKeystream i → s.engine.lfsr = u.engine.lfsr ∧ s.engine.nfsr = u.engine.nfsr) →
    ((∃ k, i = .rdtag k) ∨ i = .vfy → s.phase = .finalized → tag s = tag u) →
    (i = .vfy → s.xtag = u.xtag) →
    exec i s = .next t → exec i u = .next v → SameVisible t v

/-- 00_scope.md R15: `exec` is the command set under the hardware's own parameters. -/
def Obligations.ExecIsConfigured : Prop := ∀ (i : Instr) (s : State), exec i s = execWith Config.params i s

/-! ### The step and the port -/

/-- A step that accepts a command word executes the decoded command (00_scope.md R14, 30_encoding.md R70). The model's own:
that a step is one sample of the pins, in which an accepted command is executed whole (log entry 5; the step of R14 is `exec`
and `runWord`), and that the sample leaves `inputs` and the held-back word is dropped (log entries 6, 7). -/
def Obligations.StepRunsDecodedCommand : Prop :=
  ∀ (s : State) (p : PortInput) (ps : List PortInput) (i : Instr),
    s.inputs = p :: ps → p.rstN = true → p.cmdValid = true → s.rsp = none → (s.stalled = none ∨ s.stalled = some p.cmd) →
    decode p.cmd = .command i → step s = exec i { s with inputs := ps, stalled := none }

/-- An illegal word is answered `IllegalCommand` in every phase and changes no register (60_exceptions.md R195, 30_encoding.md
R76). The model's own: that this is one sample of the pins, which leaves `inputs`, and that the held-back word is dropped (log
entries 5, 6, 7). -/
def Obligations.IllegalWordIsRejected : Prop :=
  ∀ (s : State) (p : PortInput) (ps : List PortInput) (why : IllegalWord),
    s.inputs = p :: ps → p.rstN = true → p.cmdValid = true → s.rsp = none → (s.stalled = none ∨ s.stalled = some p.cmd) →
    decode p.cmd = .illegal why → step s = .next { s with inputs := ps, stalled := none, rsp := some 0x5000 }

/-- While a response is offered no command is accepted, and the response leaves when `rsp_ready` is 1 (30_encoding.md R70).
The model's own: the sample leaves `inputs` (log entries 5, 6); `stalled` is the word offered in vain, and none when nothing is
offered, so that a withdrawn offer is forgotten (log entry 7); a taken response joins the record `taken` (log entry 8). -/
def Obligations.ResponseBlocksCommands : Prop :=
  ∀ (s : State) (p : PortInput) (ps : List PortInput) (r : Word),
    s.inputs = p :: ps → p.rstN = true → s.rsp = some r →
    (∀ w, s.stalled = some w → p.cmdValid = true → p.cmd = w) →
    step s = .next
      { s with
        inputs := ps, stalled := if p.cmdValid then some p.cmd else none
        rsp := if p.rspReady then none else some r
        taken := if p.rspReady then s.taken ++ [r] else s.taken }

/-- With nothing offered and nothing outstanding no register changes (60_exceptions.md R206, 70_reset_and_hazards.md R221). The
model's own: a host with no more samples in `inputs` drives nothing (log entries 5, 6), and an offer made in vain may be
withdrawn, which empties `stalled` (log entry 7). -/
def Obligations.IdleStepHoldsState : Prop :=
  ∀ s : State,
    (s.inputs = [] → step s = .next s)
    ∧ ∀ (p : PortInput) (ps : List PortInput), s.inputs = p :: ps → p.rstN = true → p.cmdValid = false → s.rsp = none →
      step s = .next { s with inputs := ps, stalled := none }

/-- `rst_n` low gives the reset state at any time and no response to a command in flight (70 R220, R222). The model's own: a
reset is one sample, which leaves `inputs`, empties `stalled` and keeps the record `taken` (log entries 5, 6, 7, 8, 13). -/
def Obligations.HardwareResetFromAnyState : Prop :=
  ∀ (s : State) (p : PortInput) (ps : List PortInput), s.inputs = p :: ps → p.rstN = false →
    step s = .next { State.reset with inputs := ps, taken := s.taken }

/-- A step stops exactly when the host offers a word other than the one held back. 93_implementation_defined.md U14 has no move
for a changed word; that this is the only stop, so that an offer may be withdrawn, and that the word counts as changed also in
the first sample where the port is ready again, are the model's own (log entry 7). -/
def Obligations.StepStopsExactlyOnChangedCommand : Prop :=
  ∀ s : State,
    ((∃ t, step s = .next t) ∨ step s = .refused .commandChangedWhileStalled)
      ∧ (step s = .refused .commandChangedWhileStalled ↔ ∃ (p : PortInput) (ps : List PortInput) (w : Word),
        s.inputs = p :: ps ∧ p.rstN = true ∧ p.cmdValid = true ∧ s.stalled = some w ∧ p.cmd ≠ w)

/-- Driven word by word over the port, the core's taken responses are those of the words executed in order (00_scope.md R16,
20_memory.md R62, 30_encoding.md R70). The model's own: a word and its response take exactly two steps, where R70 gives only a
finite number of cycles (log entry 5), and the records `inputs` and `taken` (log entries 6, 8). -/
def Obligations.PortDeliversResponsesInOrder : Prop :=
  ∀ (ws : List Word) (s : State), s.rsp = none → s.stalled = none → s.inputs = transactions ws →
    ∃ (rs : List Word) (u : State), observe ws s = some (rs, u) ∧ rs.length = ws.length
      ∧ core.run (2 * ws.length) s = .next { u with inputs := [], taken := s.taken ++ rs }

/-- 10_state.md R33, 70 R220, R221: the state after reset. -/
def Obligations.ResetState : Prop :=
  State.reset.engine = ⟨0, 0, 0, 0⟩ ∧ State.reset.key = 0 ∧ State.reset.kv = 0 ∧ State.reset.iv = 0
    ∧ State.reset.ivv = 0 ∧ State.reset.xtag = 0 ∧ State.reset.xtv = 0 ∧ State.reset.phase = .uninit
    ∧ State.reset.vok = false ∧ State.reset.vfail = false ∧ status State.reset = 0x00
    ∧ cmdReady State.reset = true ∧ State.reset.rsp = none

/-- 10_state.md R35: every step keeps the invariant. -/
def Obligations.StepKeepsInvariant : Prop := ∀ s t : State, s.Inv → step s = .next t → t.Inv

/-- 10_state.md R35: the invariant holds after reset. -/
def Obligations.ResetMeetsInvariant : Prop := State.reset.Inv

/-! ### The datapath -/

/-- 40 R93: after a register clock bit `i` of each register is the old bit `i + 1`, bit 127 is the feedback bit of the old
state, nothing else has changed, and the returned bit is `KS` of the new pair. -/
def Obligations.ClockShiftsBothRegisters : Prop :=
  ∀ (T : Taps) (e : Engine),
    (∀ i, i < 127 → (clock T e).lfsr.getLsbD i = e.lfsr.getLsbD (i + 1)
      ∧ (clock T e).nfsr.getLsbD i = e.nfsr.getLsbD (i + 1))
    ∧ (clock T e).lfsr.getLsbD 127 = fl T e.lfsr ∧ (clock T e).nfsr.getLsbD 127 = fn T e.lfsr e.nfsr
    ∧ (clock T e).sr = e.sr ∧ (clock T e).acc = e.acc
    ∧ clockBit T e = ks T (clock T e).lfsr (clock T e).nfsr

/-- 40 R91, R92, R94: the corner cases of the feedback functions and the combiner, for a well-formed tap record. -/
def Obligations.FeedbackCornerCases : Prop :=
  ∀ T : Taps, T.wellFormed = true →
    fl T 0 = false ∧ fl T (BitVec.allOnes 128) = true ∧ (∀ l : Reg, fn T l 0 = l.getLsbD 0) ∧ ks T 0 0 = false

/-- 00_scope.md R11, 40 R98: `XORSUM` is 1 exactly when an odd number of its arguments is, `ANDALL` exactly when all of them
are, so neither depends on their order. That `ANDALL` of no argument is 1 is the model's own (log entry 2). -/
def Obligations.SumsAreParityAndConjunction : Prop :=
  (∀ bs : List Bool, xorSum bs = true ↔ bs.count true % 2 = 1)
    ∧ (∀ bs : List Bool, andAll bs = true ↔ false ∉ bs)
    ∧ ∀ bs cs : List Bool, bs.Perm cs → xorSum bs = xorSum cs ∧ andAll bs = andAll cs

/-! ### The façade -/

/-- 44_facade_macros.md R170, 20_memory.md R52, 95_test_vectors.md V3: `NEW` loads every key and IV bit and touches no
cipher register; a wrong length fails before any command. The model's own: the host takes each response at once (log entry 15),
so that `inputs`, `stalled` and the record `taken` stay (log entries 6, 7, 8). -/
def Obligations.NewLoadsKeyAndIv : Prop :=
  ∀ (C : Params) (key iv : List Byte) (s : State),
    (key.length = 16 → iv.length = 12 → ∃ t, newInstance C key iv s = .done () t
      ∧ t = { State.reset with
          key := t.key, kv := 0xFFFF, iv := t.iv, ivv := 0xFFF, stalled := s.stalled, inputs := s.inputs, taken := s.taken }
      ∧ (∀ i, i < 128 → some (t.key.getLsbD i) = key[i / 8]?.map (·.getLsbD (i % 8)))
      ∧ ∀ i, i < 96 → some (t.iv.getLsbD i) = iv[i / 8]?.map (·.getLsbD (i % 8)))
    ∧ (key.length ≠ 16 ∨ iv.length ≠ 12 → newInstance C key iv s = .failed 1 s)

/-- 42 R144, 44 R171: an encryption on a loaded instance completes from every phase, with as many ciphertext bytes as
plaintext bytes (none included) and a tag of eight. -/
def Obligations.EncryptCompletes : Prop :=
  ∀ (C : Params) (pt ad : List Byte) (s : State), s.kv = 0xFFFF → s.ivv = 0xFFF →
    ∃ (ct tg : List Byte) (t : State), encrypt C pt ad s = .done (ct, tg) t
      ∧ ct.length = pt.length ∧ tg.length = 8 ∧ t.phase = .finalized

/-- 44 R173, R177: under `PT` and `CT` the untampered output of `ENCRYPT` verifies and gives the plaintext back. -/
def Obligations.DecryptAndVerifyAcceptsEncrypt : Prop :=
  ∀ (C : Params) (pt ad ct tg : List Byte) (s u t : State), C.authPolicy ≠ .src →
    u.key = s.key → u.iv = s.iv → u.kv = 0xFFFF → u.ivv = 0xFFF → encrypt C pt ad s = .done (ct, tg) t →
    ∃ v, decryptAndVerify C ct tg ad u = .done pt v ∧ v.vok = true

/-- 44 R175: under `CT` the two-pass form accepts the untampered output of `ENCRYPT` too. -/
def Obligations.VerifyThenDecryptAcceptsEncrypt : Prop :=
  ∀ (C : Params) (pt ad ct tg : List Byte) (s u t : State), C.authPolicy = .ct →
    u.key = s.key → u.iv = s.iv → u.kv = 0xFFFF → u.ivv = 0xFFF → encrypt C pt ad s = .done (ct, tg) t →
    ∃ v, verifyThenDecrypt C ct tg ad u = .done pt v

/-! ### What the datapath functions compute -/

/-- 40 R91, R92, R94, R95: what `FL`, `FN`, `H`, `KS` and `PRE` compute: 1 exactly when an odd number of their terms is 1. The
statement ranges over every tap record; what it says of a record that R7 does not admit, that an empty monomial is 1 and a tap
listed twice counts twice, is the model's own (log entry 2). -/
def Obligations.DatapathFunctionsAreParities : Prop :=
  ∀ (T : Taps) (l n : Reg),
    (fl T l = true ↔ (T.lfsrTaps.countP fun (i : Fin 128) => l.getLsbD i) % 2 = 1)
    ∧ (fn T l n = true ↔
      ((l.getLsbD 0).toNat + (T.nfsrLinTaps.countP fun (i : Fin 128) => n.getLsbD i)
        + T.nfsrAndPairs.countP fun (p : Fin 128 × Fin 128) => n.getLsbD p.1 && n.getLsbD p.2) % 2 = 1)
    ∧ (hBit T l n = true ↔ T.hMonomials.countP (monomialReads l n) % 2 = 1)
    ∧ (ks T l n = true ↔ (T.hMonomials.countP (monomialReads l n) + (n.getLsbD 0).toNat) % 2 = 1)
    ∧ (pre T l n = true ↔ T.preMonomials.countP (monomialReads l n) % 2 = 1)
end

