-- ==== Sys2Proof/Laws/State.lean ====
section
/-! SUPPORT. What each named update does to each field of the state, and of the engine registers: one lemma per field per
update, so that no later proof unfolds a record update. -/

namespace Sys2Proof.Machine

/-! ### `setRsp` -/

@[simp] theorem setRsp_engine (r : Option Word) (s : State) : (setRsp r s).engine = s.engine := rfl
@[simp] theorem setRsp_key (r : Option Word) (s : State) : (setRsp r s).key = s.key := rfl
@[simp] theorem setRsp_kv (r : Option Word) (s : State) : (setRsp r s).kv = s.kv := rfl
@[simp] theorem setRsp_iv (r : Option Word) (s : State) : (setRsp r s).iv = s.iv := rfl
@[simp] theorem setRsp_ivv (r : Option Word) (s : State) : (setRsp r s).ivv = s.ivv := rfl
@[simp] theorem setRsp_xtag (r : Option Word) (s : State) : (setRsp r s).xtag = s.xtag := rfl
@[simp] theorem setRsp_xtv (r : Option Word) (s : State) : (setRsp r s).xtv = s.xtv := rfl
@[simp] theorem setRsp_phase (r : Option Word) (s : State) : (setRsp r s).phase = s.phase := rfl
@[simp] theorem setRsp_vok (r : Option Word) (s : State) : (setRsp r s).vok = s.vok := rfl
@[simp] theorem setRsp_vfail (r : Option Word) (s : State) : (setRsp r s).vfail = s.vfail := rfl
@[simp] theorem setRsp_rsp (r : Option Word) (s : State) : (setRsp r s).rsp = r := rfl
@[simp] theorem setRsp_stalled (r : Option Word) (s : State) : (setRsp r s).stalled = s.stalled := rfl
@[simp] theorem setRsp_inputs (r : Option Word) (s : State) : (setRsp r s).inputs = s.inputs := rfl
@[simp] theorem setRsp_taken (r : Option Word) (s : State) : (setRsp r s).taken = s.taken := rfl

/-! ### `setEngine` -/

@[simp] theorem setEngine_engine (e : Engine) (s : State) : (setEngine e s).engine = e := rfl
@[simp] theorem setEngine_key (e : Engine) (s : State) : (setEngine e s).key = s.key := rfl
@[simp] theorem setEngine_kv (e : Engine) (s : State) : (setEngine e s).kv = s.kv := rfl
@[simp] theorem setEngine_iv (e : Engine) (s : State) : (setEngine e s).iv = s.iv := rfl
@[simp] theorem setEngine_ivv (e : Engine) (s : State) : (setEngine e s).ivv = s.ivv := rfl
@[simp] theorem setEngine_xtag (e : Engine) (s : State) : (setEngine e s).xtag = s.xtag := rfl
@[simp] theorem setEngine_xtv (e : Engine) (s : State) : (setEngine e s).xtv = s.xtv := rfl
@[simp] theorem setEngine_phase (e : Engine) (s : State) : (setEngine e s).phase = s.phase := rfl
@[simp] theorem setEngine_vok (e : Engine) (s : State) : (setEngine e s).vok = s.vok := rfl
@[simp] theorem setEngine_vfail (e : Engine) (s : State) : (setEngine e s).vfail = s.vfail := rfl
@[simp] theorem setEngine_rsp (e : Engine) (s : State) : (setEngine e s).rsp = s.rsp := rfl
@[simp] theorem setEngine_stalled (e : Engine) (s : State) : (setEngine e s).stalled = s.stalled := rfl
@[simp] theorem setEngine_inputs (e : Engine) (s : State) : (setEngine e s).inputs = s.inputs := rfl
@[simp] theorem setEngine_taken (e : Engine) (s : State) : (setEngine e s).taken = s.taken := rfl

/-! ### `setPhase` -/

@[simp] theorem setPhase_engine (p : Phase) (s : State) : (setPhase p s).engine = s.engine := rfl
@[simp] theorem setPhase_key (p : Phase) (s : State) : (setPhase p s).key = s.key := rfl
@[simp] theorem setPhase_kv (p : Phase) (s : State) : (setPhase p s).kv = s.kv := rfl
@[simp] theorem setPhase_iv (p : Phase) (s : State) : (setPhase p s).iv = s.iv := rfl
@[simp] theorem setPhase_ivv (p : Phase) (s : State) : (setPhase p s).ivv = s.ivv := rfl
@[simp] theorem setPhase_xtag (p : Phase) (s : State) : (setPhase p s).xtag = s.xtag := rfl
@[simp] theorem setPhase_xtv (p : Phase) (s : State) : (setPhase p s).xtv = s.xtv := rfl
@[simp] theorem setPhase_phase (p : Phase) (s : State) : (setPhase p s).phase = p := rfl
@[simp] theorem setPhase_vok (p : Phase) (s : State) : (setPhase p s).vok = s.vok := rfl
@[simp] theorem setPhase_vfail (p : Phase) (s : State) : (setPhase p s).vfail = s.vfail := rfl
@[simp] theorem setPhase_rsp (p : Phase) (s : State) : (setPhase p s).rsp = s.rsp := rfl
@[simp] theorem setPhase_stalled (p : Phase) (s : State) : (setPhase p s).stalled = s.stalled := rfl
@[simp] theorem setPhase_inputs (p : Phase) (s : State) : (setPhase p s).inputs = s.inputs := rfl
@[simp] theorem setPhase_taken (p : Phase) (s : State) : (setPhase p s).taken = s.taken := rfl

/-! ### `setVerdict` -/

@[simp] theorem setVerdict_engine (m : Bool) (s : State) : (setVerdict m s).engine = s.engine := rfl
@[simp] theorem setVerdict_key (m : Bool) (s : State) : (setVerdict m s).key = s.key := rfl
@[simp] theorem setVerdict_kv (m : Bool) (s : State) : (setVerdict m s).kv = s.kv := rfl
@[simp] theorem setVerdict_iv (m : Bool) (s : State) : (setVerdict m s).iv = s.iv := rfl
@[simp] theorem setVerdict_ivv (m : Bool) (s : State) : (setVerdict m s).ivv = s.ivv := rfl
@[simp] theorem setVerdict_xtag (m : Bool) (s : State) : (setVerdict m s).xtag = s.xtag := rfl
@[simp] theorem setVerdict_xtv (m : Bool) (s : State) : (setVerdict m s).xtv = s.xtv := rfl
@[simp] theorem setVerdict_phase (m : Bool) (s : State) : (setVerdict m s).phase = s.phase := rfl
@[simp] theorem setVerdict_vok (m : Bool) (s : State) : (setVerdict m s).vok = m := rfl
@[simp] theorem setVerdict_vfail (m : Bool) (s : State) : (setVerdict m s).vfail = !m := rfl
@[simp] theorem setVerdict_rsp (m : Bool) (s : State) : (setVerdict m s).rsp = s.rsp := rfl
@[simp] theorem setVerdict_stalled (m : Bool) (s : State) : (setVerdict m s).stalled = s.stalled := rfl
@[simp] theorem setVerdict_inputs (m : Bool) (s : State) : (setVerdict m s).inputs = s.inputs := rfl
@[simp] theorem setVerdict_taken (m : Bool) (s : State) : (setVerdict m s).taken = s.taken := rfl

/-! ### `clearVerdict` -/

@[simp] theorem clearVerdict_engine (s : State) : (clearVerdict s).engine = s.engine := rfl
@[simp] theorem clearVerdict_key (s : State) : (clearVerdict s).key = s.key := rfl
@[simp] theorem clearVerdict_kv (s : State) : (clearVerdict s).kv = s.kv := rfl
@[simp] theorem clearVerdict_iv (s : State) : (clearVerdict s).iv = s.iv := rfl
@[simp] theorem clearVerdict_ivv (s : State) : (clearVerdict s).ivv = s.ivv := rfl
@[simp] theorem clearVerdict_xtag (s : State) : (clearVerdict s).xtag = s.xtag := rfl
@[simp] theorem clearVerdict_xtv (s : State) : (clearVerdict s).xtv = s.xtv := rfl
@[simp] theorem clearVerdict_phase (s : State) : (clearVerdict s).phase = s.phase := rfl
@[simp] theorem clearVerdict_vok (s : State) : (clearVerdict s).vok = false := rfl
@[simp] theorem clearVerdict_vfail (s : State) : (clearVerdict s).vfail = false := rfl
@[simp] theorem clearVerdict_rsp (s : State) : (clearVerdict s).rsp = s.rsp := rfl
@[simp] theorem clearVerdict_stalled (s : State) : (clearVerdict s).stalled = s.stalled := rfl
@[simp] theorem clearVerdict_inputs (s : State) : (clearVerdict s).inputs = s.inputs := rfl
@[simp] theorem clearVerdict_taken (s : State) : (clearVerdict s).taken = s.taken := rfl

/-! ### `writeKeyByte` -/

@[simp] theorem writeKeyByte_engine (k : Nat) (b : Byte) (s : State) : (writeKeyByte k b s).engine = s.engine := rfl
@[simp] theorem writeKeyByte_key (k : Nat) (b : Byte) (s : State) : (writeKeyByte k b s).key = bufWrite s.key k b := rfl
@[simp] theorem writeKeyByte_kv (k : Nat) (b : Byte) (s : State) : (writeKeyByte k b s).kv = markWritten s.kv k := rfl
@[simp] theorem writeKeyByte_iv (k : Nat) (b : Byte) (s : State) : (writeKeyByte k b s).iv = s.iv := rfl
@[simp] theorem writeKeyByte_ivv (k : Nat) (b : Byte) (s : State) : (writeKeyByte k b s).ivv = s.ivv := rfl
@[simp] theorem writeKeyByte_xtag (k : Nat) (b : Byte) (s : State) : (writeKeyByte k b s).xtag = s.xtag := rfl
@[simp] theorem writeKeyByte_xtv (k : Nat) (b : Byte) (s : State) : (writeKeyByte k b s).xtv = s.xtv := rfl
@[simp] theorem writeKeyByte_phase (k : Nat) (b : Byte) (s : State) : (writeKeyByte k b s).phase = s.phase := rfl
@[simp] theorem writeKeyByte_vok (k : Nat) (b : Byte) (s : State) : (writeKeyByte k b s).vok = s.vok := rfl
@[simp] theorem writeKeyByte_vfail (k : Nat) (b : Byte) (s : State) : (writeKeyByte k b s).vfail = s.vfail := rfl
@[simp] theorem writeKeyByte_rsp (k : Nat) (b : Byte) (s : State) : (writeKeyByte k b s).rsp = s.rsp := rfl
@[simp] theorem writeKeyByte_stalled (k : Nat) (b : Byte) (s : State) : (writeKeyByte k b s).stalled = s.stalled := rfl
@[simp] theorem writeKeyByte_inputs (k : Nat) (b : Byte) (s : State) : (writeKeyByte k b s).inputs = s.inputs := rfl
@[simp] theorem writeKeyByte_taken (k : Nat) (b : Byte) (s : State) : (writeKeyByte k b s).taken = s.taken := rfl

/-! ### `writeIvByte` -/

@[simp] theorem writeIvByte_engine (k : Nat) (b : Byte) (s : State) : (writeIvByte k b s).engine = s.engine := rfl
@[simp] theorem writeIvByte_key (k : Nat) (b : Byte) (s : State) : (writeIvByte k b s).key = s.key := rfl
@[simp] theorem writeIvByte_kv (k : Nat) (b : Byte) (s : State) : (writeIvByte k b s).kv = s.kv := rfl
@[simp] theorem writeIvByte_iv (k : Nat) (b : Byte) (s : State) : (writeIvByte k b s).iv = bufWrite s.iv k b := rfl
@[simp] theorem writeIvByte_ivv (k : Nat) (b : Byte) (s : State) : (writeIvByte k b s).ivv = markWritten s.ivv k := rfl
@[simp] theorem writeIvByte_xtag (k : Nat) (b : Byte) (s : State) : (writeIvByte k b s).xtag = s.xtag := rfl
@[simp] theorem writeIvByte_xtv (k : Nat) (b : Byte) (s : State) : (writeIvByte k b s).xtv = s.xtv := rfl
@[simp] theorem writeIvByte_phase (k : Nat) (b : Byte) (s : State) : (writeIvByte k b s).phase = s.phase := rfl
@[simp] theorem writeIvByte_vok (k : Nat) (b : Byte) (s : State) : (writeIvByte k b s).vok = s.vok := rfl
@[simp] theorem writeIvByte_vfail (k : Nat) (b : Byte) (s : State) : (writeIvByte k b s).vfail = s.vfail := rfl
@[simp] theorem writeIvByte_rsp (k : Nat) (b : Byte) (s : State) : (writeIvByte k b s).rsp = s.rsp := rfl
@[simp] theorem writeIvByte_stalled (k : Nat) (b : Byte) (s : State) : (writeIvByte k b s).stalled = s.stalled := rfl
@[simp] theorem writeIvByte_inputs (k : Nat) (b : Byte) (s : State) : (writeIvByte k b s).inputs = s.inputs := rfl
@[simp] theorem writeIvByte_taken (k : Nat) (b : Byte) (s : State) : (writeIvByte k b s).taken = s.taken := rfl

/-! ### `writeXtagByte` -/

@[simp] theorem writeXtagByte_engine (k : Nat) (b : Byte) (s : State) : (writeXtagByte k b s).engine = s.engine := rfl
@[simp] theorem writeXtagByte_key (k : Nat) (b : Byte) (s : State) : (writeXtagByte k b s).key = s.key := rfl
@[simp] theorem writeXtagByte_kv (k : Nat) (b : Byte) (s : State) : (writeXtagByte k b s).kv = s.kv := rfl
@[simp] theorem writeXtagByte_iv (k : Nat) (b : Byte) (s : State) : (writeXtagByte k b s).iv = s.iv := rfl
@[simp] theorem writeXtagByte_ivv (k : Nat) (b : Byte) (s : State) : (writeXtagByte k b s).ivv = s.ivv := rfl
@[simp] theorem writeXtagByte_xtag (k : Nat) (b : Byte) (s : State) : (writeXtagByte k b s).xtag = bufWrite s.xtag k b := rfl
@[simp] theorem writeXtagByte_xtv (k : Nat) (b : Byte) (s : State) : (writeXtagByte k b s).xtv = markWritten s.xtv k := rfl
@[simp] theorem writeXtagByte_phase (k : Nat) (b : Byte) (s : State) : (writeXtagByte k b s).phase = s.phase := rfl
@[simp] theorem writeXtagByte_vok (k : Nat) (b : Byte) (s : State) : (writeXtagByte k b s).vok = s.vok := rfl
@[simp] theorem writeXtagByte_vfail (k : Nat) (b : Byte) (s : State) : (writeXtagByte k b s).vfail = s.vfail := rfl
@[simp] theorem writeXtagByte_rsp (k : Nat) (b : Byte) (s : State) : (writeXtagByte k b s).rsp = s.rsp := rfl
@[simp] theorem writeXtagByte_stalled (k : Nat) (b : Byte) (s : State) : (writeXtagByte k b s).stalled = s.stalled := rfl
@[simp] theorem writeXtagByte_inputs (k : Nat) (b : Byte) (s : State) : (writeXtagByte k b s).inputs = s.inputs := rfl
@[simp] theorem writeXtagByte_taken (k : Nat) (b : Byte) (s : State) : (writeXtagByte k b s).taken = s.taken := rfl

/-! ### `clearXtag` -/

@[simp] theorem clearXtag_engine (s : State) : (clearXtag s).engine = s.engine := rfl
@[simp] theorem clearXtag_key (s : State) : (clearXtag s).key = s.key := rfl
@[simp] theorem clearXtag_kv (s : State) : (clearXtag s).kv = s.kv := rfl
@[simp] theorem clearXtag_iv (s : State) : (clearXtag s).iv = s.iv := rfl
@[simp] theorem clearXtag_ivv (s : State) : (clearXtag s).ivv = s.ivv := rfl
@[simp] theorem clearXtag_xtag (s : State) : (clearXtag s).xtag = 0 := rfl
@[simp] theorem clearXtag_xtv (s : State) : (clearXtag s).xtv = 0 := rfl
@[simp] theorem clearXtag_phase (s : State) : (clearXtag s).phase = s.phase := rfl
@[simp] theorem clearXtag_vok (s : State) : (clearXtag s).vok = s.vok := rfl
@[simp] theorem clearXtag_vfail (s : State) : (clearXtag s).vfail = s.vfail := rfl
@[simp] theorem clearXtag_rsp (s : State) : (clearXtag s).rsp = s.rsp := rfl
@[simp] theorem clearXtag_stalled (s : State) : (clearXtag s).stalled = s.stalled := rfl
@[simp] theorem clearXtag_inputs (s : State) : (clearXtag s).inputs = s.inputs := rfl
@[simp] theorem clearXtag_taken (s : State) : (clearXtag s).taken = s.taken := rfl

/-! ### `resetRegisters` -/

@[simp] theorem resetRegisters_engine (s : State) : (resetRegisters s).engine = { lfsr := 0, nfsr := 0, sr := 0, acc := 0 } := rfl
@[simp] theorem resetRegisters_key (s : State) : (resetRegisters s).key = 0 := rfl
@[simp] theorem resetRegisters_kv (s : State) : (resetRegisters s).kv = 0 := rfl
@[simp] theorem resetRegisters_iv (s : State) : (resetRegisters s).iv = 0 := rfl
@[simp] theorem resetRegisters_ivv (s : State) : (resetRegisters s).ivv = 0 := rfl
@[simp] theorem resetRegisters_xtag (s : State) : (resetRegisters s).xtag = 0 := rfl
@[simp] theorem resetRegisters_xtv (s : State) : (resetRegisters s).xtv = 0 := rfl
@[simp] theorem resetRegisters_phase (s : State) : (resetRegisters s).phase = .uninit := rfl
@[simp] theorem resetRegisters_vok (s : State) : (resetRegisters s).vok = false := rfl
@[simp] theorem resetRegisters_vfail (s : State) : (resetRegisters s).vfail = false := rfl
@[simp] theorem resetRegisters_rsp (s : State) : (resetRegisters s).rsp = s.rsp := rfl
@[simp] theorem resetRegisters_stalled (s : State) : (resetRegisters s).stalled = s.stalled := rfl
@[simp] theorem resetRegisters_inputs (s : State) : (resetRegisters s).inputs = s.inputs := rfl
@[simp] theorem resetRegisters_taken (s : State) : (resetRegisters s).taken = s.taken := rfl

/-! ### `setStalled` -/

@[simp] theorem setStalled_engine (w : Option Word) (s : State) : (setStalled w s).engine = s.engine := rfl
@[simp] theorem setStalled_key (w : Option Word) (s : State) : (setStalled w s).key = s.key := rfl
@[simp] theorem setStalled_kv (w : Option Word) (s : State) : (setStalled w s).kv = s.kv := rfl
@[simp] theorem setStalled_iv (w : Option Word) (s : State) : (setStalled w s).iv = s.iv := rfl
@[simp] theorem setStalled_ivv (w : Option Word) (s : State) : (setStalled w s).ivv = s.ivv := rfl
@[simp] theorem setStalled_xtag (w : Option Word) (s : State) : (setStalled w s).xtag = s.xtag := rfl
@[simp] theorem setStalled_xtv (w : Option Word) (s : State) : (setStalled w s).xtv = s.xtv := rfl
@[simp] theorem setStalled_phase (w : Option Word) (s : State) : (setStalled w s).phase = s.phase := rfl
@[simp] theorem setStalled_vok (w : Option Word) (s : State) : (setStalled w s).vok = s.vok := rfl
@[simp] theorem setStalled_vfail (w : Option Word) (s : State) : (setStalled w s).vfail = s.vfail := rfl
@[simp] theorem setStalled_rsp (w : Option Word) (s : State) : (setStalled w s).rsp = s.rsp := rfl
@[simp] theorem setStalled_stalled (w : Option Word) (s : State) : (setStalled w s).stalled = w := rfl
@[simp] theorem setStalled_inputs (w : Option Word) (s : State) : (setStalled w s).inputs = s.inputs := rfl
@[simp] theorem setStalled_taken (w : Option Word) (s : State) : (setStalled w s).taken = s.taken := rfl

/-! ### `setInputs` -/

@[simp] theorem setInputs_engine (ps : List PortInput) (s : State) : (setInputs ps s).engine = s.engine := rfl
@[simp] theorem setInputs_key (ps : List PortInput) (s : State) : (setInputs ps s).key = s.key := rfl
@[simp] theorem setInputs_kv (ps : List PortInput) (s : State) : (setInputs ps s).kv = s.kv := rfl
@[simp] theorem setInputs_iv (ps : List PortInput) (s : State) : (setInputs ps s).iv = s.iv := rfl
@[simp] theorem setInputs_ivv (ps : List PortInput) (s : State) : (setInputs ps s).ivv = s.ivv := rfl
@[simp] theorem setInputs_xtag (ps : List PortInput) (s : State) : (setInputs ps s).xtag = s.xtag := rfl
@[simp] theorem setInputs_xtv (ps : List PortInput) (s : State) : (setInputs ps s).xtv = s.xtv := rfl
@[simp] theorem setInputs_phase (ps : List PortInput) (s : State) : (setInputs ps s).phase = s.phase := rfl
@[simp] theorem setInputs_vok (ps : List PortInput) (s : State) : (setInputs ps s).vok = s.vok := rfl
@[simp] theorem setInputs_vfail (ps : List PortInput) (s : State) : (setInputs ps s).vfail = s.vfail := rfl
@[simp] theorem setInputs_rsp (ps : List PortInput) (s : State) : (setInputs ps s).rsp = s.rsp := rfl
@[simp] theorem setInputs_stalled (ps : List PortInput) (s : State) : (setInputs ps s).stalled = s.stalled := rfl
@[simp] theorem setInputs_inputs (ps : List PortInput) (s : State) : (setInputs ps s).inputs = ps := rfl
@[simp] theorem setInputs_taken (ps : List PortInput) (s : State) : (setInputs ps s).taken = s.taken := rfl

/-! ### `clock` -/

@[simp] theorem clock_lfsr (T : Taps) (e : Engine) : (clock T e).lfsr = shiftIn (fl T e.lfsr) e.lfsr := rfl
@[simp] theorem clock_nfsr (T : Taps) (e : Engine) : (clock T e).nfsr = shiftIn (fn T e.lfsr e.nfsr) e.nfsr := rfl
@[simp] theorem clock_sr (T : Taps) (e : Engine) : (clock T e).sr = e.sr := rfl
@[simp] theorem clock_acc (T : Taps) (e : Engine) : (clock T e).acc = e.acc := rfl

/-! ### `gateAcc` -/

@[simp] theorem gateAcc_lfsr (g : Bool) (v : Reg) (e : Engine) : (gateAcc g v e).lfsr = e.lfsr := by cases g <;> rfl
@[simp] theorem gateAcc_nfsr (g : Bool) (v : Reg) (e : Engine) : (gateAcc g v e).nfsr = e.nfsr := by cases g <;> rfl
@[simp] theorem gateAcc_sr (g : Bool) (v : Reg) (e : Engine) : (gateAcc g v e).sr = e.sr := by cases g <;> rfl
@[simp] theorem gateAcc_acc (g : Bool) (v : Reg) (e : Engine) : (gateAcc g v e).acc = if g then e.acc ^^^ v else e.acc := by cases g <;> rfl

/-! ### `advanceSr` -/

@[simp] theorem advanceSr_lfsr (T : Taps) (v : Reg) (e : Engine) : (advanceSr T v e).lfsr = e.lfsr := rfl
@[simp] theorem advanceSr_nfsr (T : Taps) (v : Reg) (e : Engine) : (advanceSr T v e).nfsr = e.nfsr := rfl
@[simp] theorem advanceSr_sr (T : Taps) (v : Reg) (e : Engine) : (advanceSr T v e).sr = shiftIn (pre T e.lfsr e.nfsr) v := rfl
@[simp] theorem advanceSr_acc (T : Taps) (v : Reg) (e : Engine) : (advanceSr T v e).acc = e.acc := rfl

/-! ### `mixKeystream` -/

@[simp] theorem mixKeystream_lfsr (y : Bool) (e : Engine) : (mixKeystream y e).lfsr = xorTop y e.lfsr := rfl
@[simp] theorem mixKeystream_nfsr (y : Bool) (e : Engine) : (mixKeystream y e).nfsr = xorTop y e.nfsr := rfl
@[simp] theorem mixKeystream_sr (y : Bool) (e : Engine) : (mixKeystream y e).sr = e.sr := rfl
@[simp] theorem mixKeystream_acc (y : Bool) (e : Engine) : (mixKeystream y e).acc = e.acc := rfl

end Sys2Proof.Machine
end

