-- ==== Sys2Proof/Laws/Ops.lean ====
section
/-! SUPPORT. What the shared operations do: buffers bit by bit and byte by byte, the response word, taking a fault. -/

namespace Sys2Proof.Machine

/-! ### Buffers -/

/-- `BufWrite` bit by bit (spec 00_scope.md R11). -/
theorem getLsbD_bufWrite {n : Nat} (B : BitVec n) (k : Nat) (v : Byte) (i : Nat) (hi : i < n) :
    (bufWrite B k v).getLsbD i = if 8 * k ≤ i ∧ i < 8 * k + 8 then v.getLsbD (i - 8 * k) else B.getLsbD i := by
  unfold bufWrite
  have mask : (0xFF#8).getLsbD (i - 8 * k) = decide (i - 8 * k < 8) := by
    simpa using BitVec.getLsbD_allOnes (v := 8) (i := i - 8 * k)
  simp only [BitVec.getLsbD_or, BitVec.getLsbD_and, BitVec.getLsbD_not, BitVec.getLsbD_shiftLeft, BitVec.getLsbD_setWidth,
    hi, mask]
  by_cases low : i < 8 * k
  · simp [low]
  · have inside : i - 8 * k < n := by omega
    by_cases high : i - 8 * k < 8
    · simp [low, inside, high, show 8 * k ≤ i ∧ i < 8 * k + 8 by omega]
    · have none : v.getLsbD (i - 8 * k) = false := BitVec.getLsbD_of_ge v _ (by omega)
      simp [low, inside, high, none, show ¬(8 * k ≤ i ∧ i < 8 * k + 8) by omega]

/-- The valid mask bit by bit. -/
theorem getLsbD_markWritten {n : Nat} (M : BitVec n) (k i : Nat) (hi : i < n) :
    (markWritten M k).getLsbD i = (decide (i = k) || M.getLsbD i) := by
  unfold markWritten
  rw [BitVec.getLsbD_or, ← BitVec.twoPow_eq, BitVec.getLsbD_twoPow, Bool.or_comm]
  by_cases h : i = k
  · subst h; simp [hi]
  · simp [h, Ne.symm h]

/-- `BufRead` bit by bit (R11). -/
theorem getLsbD_bufRead {n : Nat} (B : BitVec n) (k i : Nat) :
    (bufRead B k).getLsbD i = (decide (i < 8) && B.getLsbD (8 * k + i)) := by
  simp [bufRead, BitVec.getLsbD_extractLsb']

/-- A written byte reads back. -/
theorem bufRead_bufWrite_same {n : Nat} (B : BitVec n) (k : Nat) (v : Byte) (h : 8 * k + 8 ≤ n) :
    bufRead (bufWrite B k v) k = v := by
  apply BitVec.eq_of_getLsbD_eq
  intro i hi
  rw [getLsbD_bufRead, getLsbD_bufWrite _ _ _ _ (by omega)]
  simp [hi]

/-- A write leaves every other byte alone. -/
theorem bufRead_bufWrite_other {n : Nat} (B : BitVec n) (j k : Nat) (v : Byte) (h : j ≠ k) (hj : 8 * j + 8 ≤ n) :
    bufRead (bufWrite B k v) j = bufRead B j := by
  apply BitVec.eq_of_getLsbD_eq
  intro i hi
  rw [getLsbD_bufRead, getLsbD_bufRead, getLsbD_bufWrite _ _ _ _ (by omega),
    if_neg (by omega)]

/-- The tag's byte `k` is `ACC`'s byte `k` (20_memory.md R56). -/
theorem bufRead_tag (s : State) (k : Nat) (h : k < 8) : bufRead (tag s) k = bufRead s.engine.acc k := by
  apply BitVec.eq_of_getLsbD_eq
  intro i hi
  rw [getLsbD_bufRead, getLsbD_bufRead, tag, BitVec.getLsbD_extractLsb', Nat.zero_add,
    show decide (8 * k + i < 64) = true from decide_eq_true (by omega), Bool.true_and]

/-! ### Responses -/

@[simp] theorem errField_responseWord (e : ErrCode) (d : Byte) : errField (responseWord e d) = errCode e := by
  apply BitVec.eq_of_getLsbD_eq
  intro i hi
  simp only [errField, responseWord, BitVec.getLsbD_extractLsb', BitVec.getLsbD_append, hi]
  simp [show ¬(12 + i < 8) by omega, show ¬(12 + i - 8 < 4) by omega, show 12 + i - 8 - 4 = i by omega]

@[simp] theorem dataField_responseWord (e : ErrCode) (d : Byte) : dataField (responseWord e d) = d := by
  apply BitVec.eq_of_getLsbD_eq
  intro i hi
  simp only [dataField, responseWord, BitVec.getLsbD_extractLsb', BitVec.getLsbD_append, hi]
  simp [hi]

@[simp] theorem reserved_responseWord (e : ErrCode) (d : Byte) : (responseWord e d).extractLsb' 8 4 = 0 := by
  apply BitVec.eq_of_getLsbD_eq
  intro i hi
  simp only [responseWord, BitVec.getLsbD_extractLsb', BitVec.getLsbD_append, hi]
  simp [hi]

/-- All that `respond` can do. -/
theorem respond_eq (d : Byte) (s : State) : respond d s = .next { s with rsp := some (responseWord .ok d) } := rfl

/-- All that taking a fault can do. -/
theorem raise_eq (e : ErrCode) (s : State) : raise e s = .next { s with rsp := some (responseWord e 0) } := rfl

/-- An OK response is its data byte under zeros (30_encoding.md R72). -/
theorem responseWord_ok (d : Byte) : responseWord .ok d = 0#8 ++ d := by
  apply BitVec.eq_of_getLsbD_eq
  intro i hi
  simp only [responseWord, errCode, BitVec.getLsbD_append]
  simp

/-- All that the hardware reset can do. -/
theorem hardwareReset_eq (s : State) :
    hardwareReset s = { State.reset with inputs := s.inputs, taken := s.taken } := rfl

end Sys2Proof.Machine
end

