-- ==== Sys2Proof/Laws/Datapath.lean ====
section
/-! SUPPORT. What the datapath does: the shifts bit by bit and in the spec's shift form, one step and one blind clock as the
relations of Safety.lean, and that no loop touches anything but the four engine registers. -/

namespace Sys2Proof.Machine

/-! ### Sums and products -/

@[simp] theorem xorSum_nil : xorSum [] = false := rfl

@[simp] theorem xorSum_cons (b : Bool) (bs : List Bool) : xorSum (b :: bs) = (b ^^ xorSum bs) := rfl

@[simp] theorem andAll_nil : andAll [] = true := rfl

@[simp] theorem andAll_cons (b : Bool) (bs : List Bool) : andAll (b :: bs) = (b && andAll bs) := rfl

@[simp] theorem tapBit_L (l n : Reg) (i : Fin 128) : tapBit l n ⟨.L, i⟩ = l.getLsbD i := rfl

@[simp] theorem tapBit_N (l n : Reg) (i : Fin 128) : tapBit l n ⟨.N, i⟩ = n.getLsbD i := rfl

/-- The product of a monomial is 1 exactly when every tap of it reads 1 (spec 40_register_pair_and_combiner.md R94, R95). -/
theorem andAll_tapBit (l n : Reg) (m : Monomial) : andAll (m.map (tapBit l n)) = monomialReads l n m := by
  induction m with
  | nil => rfl
  | cons t m ih =>
    rw [List.map_cons, andAll_cons, ih]
    obtain ⟨_ | _, i⟩ := t <;> rfl

/-! ### Shifts -/

/-- `{ b, r[127:1] }` bit by bit (spec 40_register_pair_and_combiner.md R93). -/
theorem getLsbD_shiftIn (b : Bool) (r : Reg) (i : Nat) (hi : i < 128) :
    (shiftIn b r).getLsbD i = if i = 127 then b else r.getLsbD (i + 1) := by
  unfold shiftIn
  rw [BitVec.getLsbD_append, BitVec.getLsbD_extractLsb']
  by_cases h : i = 127
  · subst h; simp
  · rw [if_neg h]
    simp [show i < 127 by omega, Nat.add_comm]

theorem getLsbD_bitAt (b : Bool) (n i : Nat) (hi : i < 128) : (bitAt b n).getLsbD i = (b && decide (i = n)) := by
  unfold bitAt
  simp only [BitVec.getLsbD_shiftLeft, BitVec.getLsbD_setWidth, hi, BitVec.getLsbD_ofBool]
  by_cases h : i < n
  · simp [h, show i ≠ n by omega]
  · by_cases e : i = n
    · subst e; simp
    · simp [h, e, show ¬(i - n = 0) by omega]

/-- The concatenation form and the shift form of R93 agree. -/
theorem shiftIn_eq_shr1 (b : Bool) (r : Reg) : shiftIn b r = shr1 r b := by
  apply BitVec.eq_of_getLsbD_eq
  intro i hi
  rw [getLsbD_shiftIn _ _ _ hi, shr1, BitVec.getLsbD_or, getLsbD_bitAt _ _ _ hi, BitVec.getLsbD_ushiftRight,
    Nat.add_comm 1 i]
  by_cases h : i = 127
  · subst h; simp
  · simp [h]

/-- `xorTop` is an XOR with the bit at place 127. -/
theorem xorTop_eq (b : Bool) (r : Reg) : xorTop b r = r ^^^ bitAt b 127 := by
  apply BitVec.eq_of_getLsbD_eq
  intro i hi
  unfold xorTop
  rw [BitVec.getLsbD_xor, BitVec.getLsbD_xor, getLsbD_bitAt _ _ _ hi, BitVec.getLsbD_append]
  by_cases h : i = 127
  · subst h; simp
  · simp [h, show i < 127 by omega]

/-! ### One step, one blind clock -/

/-- Everything `STEP` can do (40 R97). -/
theorem engineStep_rel (T : Taps) (g : GateSel) (x : Bool) (e : Engine) :
    StepRel T (clockBit T e) (gateBit g x (clockBit T e)) e (engineStep T g x e) := by
  simp [StepRel, engineStep, clockBit, shiftIn_eq_shr1]

@[simp] theorem engineStep_lfsr (T : Taps) (g : GateSel) (x : Bool) (e : Engine) :
    (engineStep T g x e).lfsr = (clock T e).lfsr := by simp [engineStep]

@[simp] theorem engineStep_nfsr (T : Taps) (g : GateSel) (x : Bool) (e : Engine) :
    (engineStep T g x e).nfsr = (clock T e).nfsr := by simp [engineStep]

@[simp] theorem engineStep_sr (T : Taps) (g : GateSel) (x : Bool) (e : Engine) :
    (engineStep T g x e).sr = shiftIn (pre T (clock T e).lfsr (clock T e).nfsr) e.sr := by simp [engineStep]

@[simp] theorem engineStep_acc (T : Taps) (g : GateSel) (x : Bool) (e : Engine) :
    (engineStep T g x e).acc = if gateBit g x (clockBit T e) then e.acc ^^^ e.sr else e.acc := by simp [engineStep]

/-- The keystream bit reads the register pair only (42_stream_commands.md R140). -/
theorem clockBit_congr (T : Taps) {e f : Engine} (hl : e.lfsr = f.lfsr) (hn : e.nfsr = f.nfsr) :
    clockBit T e = clockBit T f := by
  simp [clockBit, hl, hn]

/-- Everything a blind clock can do (41_setup_and_init.md R114). -/
theorem blind_rel (T : Taps) (i : Nat) (e : Engine) : BlindRel T i e (blind T i e) := by
  by_cases h : 192 ≤ i
  · simp [BlindRel, blind, clockBit, h, shiftIn_eq_shr1, xorTop_eq, show ¬ i < 192 by omega]
  · simp [BlindRel, blind, clockBit, h, shiftIn_eq_shr1, xorTop_eq, show i < 192 by omega]

/-! ### The loops -/

/-- One result bit per operand bit. -/
theorem streamSteps_length (T : Taps) (g : GateSel) (xs : List Bool) (e : Engine) :
    (streamSteps T g xs e).1.length = xs.length := by
  induction xs generalizing e with
  | nil => rfl
  | cons x xs ih => simp [streamSteps, ih]

/-- The loop over two parts of a list runs over the first and then over the second. -/
theorem streamSteps_append (T : Taps) (g : GateSel) (xs ys : List Bool) (e : Engine) :
    streamSteps T g (xs ++ ys) e =
      ((streamSteps T g xs e).1 ++ (streamSteps T g ys (streamSteps T g xs e).2).1,
        (streamSteps T g ys (streamSteps T g xs e).2).2) := by
  induction xs generalizing e with
  | nil => rfl
  | cons x xs ih => simp [streamSteps, ih]

/-- The loop over one more operand bit makes one more step. -/
theorem streamSteps_take_succ (T : Taps) (g : GateSel) (xs : List Bool) (j : Nat) (h : j < xs.length) (e : Engine) :
    (streamSteps T g (xs.take (j + 1)) e).2 = engineStep T g xs[j] (streamSteps T g (xs.take j) e).2 := by
  rw [List.take_succ_eq_append_getElem h, streamSteps_append]
  rfl

/-- The result bit of each step: the operand bit XOR the keystream bit from where that step starts. -/
theorem streamSteps_result (T : Taps) (g : GateSel) (xs : List Bool) (j : Nat) (h : j < xs.length) (e : Engine) :
    (streamSteps T g xs e).1[j]? = some (xs[j] ^^ clockBit T (streamSteps T g (xs.take j) e).2) := by
  induction xs generalizing j e with
  | nil => exact absurd h (Nat.not_lt_zero j)
  | cons x xs ih =>
    cases j with
    | zero => rfl
    | succ j => exact ih j (Nat.lt_of_succ_lt_succ h) (engineStep T g x e)

@[simp] theorem finalSteps_zero (T : Taps) (e : Engine) : finalSteps T 0 e = e := by
  with_unfolding_all rfl

theorem finalSteps_succ (T : Taps) (n : Nat) (e : Engine) :
    finalSteps T (n + 1) e = finalSteps T n (engineStep T .ks false e) := by
  with_unfolding_all rfl

@[simp] theorem blindClocks_zero (T : Taps) (e : Engine) : blindClocks T 0 e = e := by
  with_unfolding_all rfl

theorem blindClocks_succ (T : Taps) (n : Nat) (e : Engine) :
    blindClocks T (n + 1) e = blind T n (blindClocks T n e) := by
  with_unfolding_all rfl

end Sys2Proof.Machine
end

