-- ==== Sys2Proof/Laws/Commands.lean ====
section
/-! SUPPORT. What the shared bodies of the commands can do: each either answers with its effect on the named fields or takes a
fault that changes nothing but the response. -/

namespace Sys2Proof.Machine

/-- An accepted stream command (spec 42_stream_commands.md R131): engine registers, phase and response, nothing else. -/
theorem stream_accepted (C : Params) (kind : StreamKind) (bits : List Bool) (s : State)
    (h : streamAccepted kind s.phase = true) :
    stream C kind bits s = .next
      { s with
        engine := (streamSteps C.taps (gateSel kind C.authPolicy) bits s.engine).2,
        phase := streamPhase kind,
        rsp := some (responseWord .ok
          (streamData kind (streamSteps C.taps (gateSel kind C.authPolicy) bits s.engine).1)) } := by
  unfold stream
  rw [if_pos h]
  rfl

/-- A stream command in another phase (R131). -/
theorem stream_rejected (C : Params) (kind : StreamKind) (bits : List Bool) (s : State)
    (h : streamAccepted kind s.phase = false) :
    stream C kind bits s = .next { s with rsp := some (responseWord .protocolError 0) } := by
  unfold stream
  rw [h]
  rfl

/-- An accepted `FIN` (43_finalize_and_tag.md R151). -/
theorem finWith_accepted (C : Params) (s : State) (h : finAccepted s.phase = true) :
    finWith C s = .next
      { s with
        engine := finalSteps C.taps 64 s.engine, phase := .finalized, rsp := some (responseWord .ok 0) } := by
  unfold finWith
  rw [if_pos h]
  rfl

/-- `FIN` in another phase (R151). -/
theorem finWith_rejected (C : Params) (s : State) (h : finAccepted s.phase = false) :
    finWith C s = .next { s with rsp := some (responseWord .protocolError 0) } := by
  unfold finWith
  rw [h]
  rfl

/-- `INIT` with both buffers loaded (41_setup_and_init.md R115). -/
theorem initWith_loaded (C : Params) (s : State) (hk : s.kv = 0xFFFF) (hv : s.ivv = 0xFFF) :
    initWith C s = .next
      { s with
        engine := blindClocks C.taps 320 (loadedEngine s),
        xtag := 0, xtv := 0, vok := false, vfail := false, phase := .initialized,
        rsp := some (responseWord .ok 0) } := by
  have ready : (keyReady s && ivReady s) = true := by simp [keyReady, ivReady, hk, hv]
  unfold initWith
  rw [if_pos ready]
  rfl

/-- `INIT` with a buffer not loaded (R115). -/
theorem initWith_unloaded (C : Params) (s : State) (h : s.kv ≠ 0xFFFF ∨ s.ivv ≠ 0xFFF) :
    initWith C s = .next { s with rsp := some (responseWord .invalidParameter 0) } := by
  have ready : (keyReady s && ivReady s) = false := by
    rw [keyReady, ivReady, Bool.and_eq_false_iff, beq_eq_false_iff_ne, beq_eq_false_iff_ne]
    exact h
  unfold initWith
  rw [ready]
  rfl

end Sys2Proof.Machine
end

