-- ==== Sys2Proof/Laws/Facade.lean ====
section
/-! SUPPORT. What the host gets from one command of a session: its response byte and the state with the response taken. -/

namespace Sys2Proof.Machine

/-! ### Responses of a sequence -/

/-- Issuing a command that the core answers OK. -/
theorem issue_ok {C : Params} {i : Instr} {s t : State} {d : Byte} (h : execWith C i s = .next t)
    (hr : t.rsp = some (responseWord .ok d)) : issue C i s = .done d (setRsp none t) := by
  unfold issue
  rw [h]
  dsimp only
  rw [hr]
  dsimp only
  rw [errField_responseWord, dataField_responseWord]
  rfl

/-- Issuing a command that the core answers with a fault. -/
theorem issue_fault {C : Params} {i : Instr} {s t : State} {e : ErrCode} (h : execWith C i s = .next t)
    (hr : t.rsp = some (responseWord e 0)) (he : errCode e ≠ 0) :
    issue C i s = .failed (errCode e) (setRsp none t) := by
  unfold issue
  rw [h]
  dsimp only
  rw [hr]
  dsimp only
  rw [errField_responseWord, if_neg he]

/-- A sequence goes on after a command answered OK. -/
theorem issueAll_cons (C : Params) {i : Instr} {is : List Instr} {s t : State} {d : Byte} (h : issue C i s = .done d t) :
    issueAll C (i :: is) s = andThen (issueAll C is t) fun ds u => .done (d :: ds) u := by
  rw [issueAll, h]
  rfl

/-- A sequence in two parts. -/
theorem issueAll_append (C : Params) (is js : List Instr) (s : State) :
    issueAll C (is ++ js) s =
      andThen (issueAll C is s) fun ds t => andThen (issueAll C js t) fun es u => .done (ds ++ es) u := by
  induction is generalizing s with
  | nil =>
    show _ = andThen (issueAll C js s) fun es u => .done es u
    rw [List.nil_append]
    cases issueAll C js s <;> rfl
  | cons i is ih =>
    rw [List.cons_append, issueAll, issueAll]
    cases issue C i s with
    | failed e t => rfl
    | unanswered => rfl
    | done d t =>
      simp only [andThen]
      rw [ih]
      cases issueAll C is t with
      | failed e u => rfl
      | unanswered => rfl
      | done ds u =>
        simp only [andThen]
        cases issueAll C js u <;> rfl

/-! ### The commands of a session -/

/-- The operand bits of a data unit, in the order of processing. -/
def unitBits : DataUnit → List Bool
  | .bit b => [b]
  | .byte d => byteBits d

/-- The stream command of a kind on a data unit. -/
def unitCommand : StreamKind → DataUnit → Instr
  | .ad => adCommand
  | .enc => encCommand
  | .dec => decCommand
  | .mac => macCommand

/-- All that a stream command does, whatever its width, is `STREAM` (spec 42_stream_commands.md R131). -/
theorem execWith_unitCommand (C : Params) (k : StreamKind) (u : DataUnit) (s : State) :
    execWith C (unitCommand k u) s = stream C k (unitBits u) s := by
  cases k <;> cases u <;> rfl

/-- A stream command in a phase that accepts it. -/
theorem issue_stream_accepted (C : Params) (k : StreamKind) (u : DataUnit) (s : State)
    (h : streamAccepted k s.phase = true) :
    issue C (unitCommand k u) s = .done
      (streamData k (streamSteps C.taps (gateSel k C.authPolicy) (unitBits u) s.engine).1)
      { s with
        engine := (streamSteps C.taps (gateSel k C.authPolicy) (unitBits u) s.engine).2
        phase := streamPhase k
        rsp := none } := by
  rw [issue_ok ((execWith_unitCommand C k u s).trans (stream_accepted C k _ s h)) rfl]
  rfl

/-- `INIT` on a loaded instance (41_setup_and_init.md R115). -/
theorem issue_init_loaded (C : Params) (s : State) (hk : s.kv = 0xFFFF) (hv : s.ivv = 0xFFF) :
    issue C .init s = .done 0
      { s with
        engine := blindClocks C.taps 320 (loadedEngine s)
        xtag := 0, xtv := 0, vok := false, vfail := false
        phase := .initialized, rsp := none } := by
  have h : execWith C .init s = _ := initWith_loaded C s hk hv
  generalize blindClocks C.taps 320 (loadedEngine s) = e at h ⊢
  rw [issue_ok h rfl]
  rfl

/-- `FIN` in a phase that accepts it (43_finalize_and_tag.md R151). -/
theorem issue_fin_accepted (C : Params) (s : State) (h : finAccepted s.phase = true) :
    issue C .fin s = .done 0
      { s with engine := finalSteps C.taps 64 s.engine, phase := .finalized, rsp := none } := by
  have f : execWith C .fin s = _ := finWith_accepted C s h
  generalize finalSteps C.taps 64 s.engine = e at f ⊢
  rw [issue_ok f rfl]
  rfl

/-- `RDTAG` of each of the eight bytes in `finalized` (R152). -/
theorem issue_rdtag_finalized (C : Params) (k : BitVec 4) (s : State) (h : s.phase = .finalized) (hk : k.toNat < 8) :
    issue C (.rdtag k) s = .done (bufRead s.engine.acc k.toNat) { s with rsp := none } := by
  have f : execWith C (.rdtag k) s = respond (bufRead s.engine.acc k.toNat) s := by
    show execRdtag k s = _
    unfold execRdtag
    rw [if_neg (not_not.mpr h), if_neg (by omega)]
  rw [issue_ok f rfl]
  rfl

end Sys2Proof.Machine
end

