-- ==== Sys2Proof/Laws/PerInstr.lean ====
section
/-! SUPPORT. Statements made once per command, about the command as syntax. -/

namespace Sys2Proof.Laws

/-- A mask acts on the three fields of a word separately. -/
theorem pack_and (op op' a a' : BitVec 4) (d d' : Byte) :
    pack op a d &&& pack op' a' d' = pack (op &&& op') (a &&& a') (d &&& d') := by
  apply BitVec.eq_of_getLsbD_eq
  intro i hi
  simp only [pack, BitVec.getLsbD_and, BitVec.getLsbD_append]
  split
  · rfl
  · split <;> rfl

/-- The data field of a bit-wide command meets `FE` in no bit (spec 30_encoding.md R75). -/
theorem bitData_and (b : Bool) : bitData b &&& 0xFE = 0 := by
  cases b <;> rfl

/-- The word of a command selects the command's row of the opcode map (R75). -/
def SelectsItsRow.Statement (i : Instr) : Prop := (Machine.rowOf i).selectedBy (encode i)

/-- How each lemma of this family is shown: the row's mask as fields, then field by field. -/
theorem selectsItsRow_of_fields (i : Instr) (op op' a a' : BitVec 4) (d d' : Byte)
    (word : encode i = pack op a d) (mask : (Machine.rowOf i).mask = pack op' a' d')
    (value : pack (op &&& op') (a &&& a') (d &&& d') = (Machine.rowOf i).value) : SelectsItsRow.Statement i := by
  unfold SelectsItsRow.Statement Machine.OpcodeRow.selectedBy
  rw [word, mask, pack_and, value]

theorem SelectsItsRow.nop : SelectsItsRow.Statement .nop := rfl

theorem SelectsItsRow.rst : SelectsItsRow.Statement .rst := rfl

theorem SelectsItsRow.ldk (k : BitVec 4) (byte : Byte) : SelectsItsRow.Statement (.ldk k byte) :=
  selectsItsRow_of_fields _ 0x2 0xF k 0 byte 0 rfl rfl (by simp [Machine.rowOf]; rfl)

theorem SelectsItsRow.ldiv (k : BitVec 4) (byte : Byte) : SelectsItsRow.Statement (.ldiv k byte) :=
  selectsItsRow_of_fields _ 0x3 0xF k 0 byte 0 rfl rfl (by simp [Machine.rowOf]; rfl)

theorem SelectsItsRow.init : SelectsItsRow.Statement .init := rfl

theorem SelectsItsRow.adb (bit : Bool) : SelectsItsRow.Statement (.adb bit) :=
  selectsItsRow_of_fields _ 0x5 0xF 0 0xF (bitData bit) 0xFE rfl rfl (by rw [bitData_and]; rfl)

theorem SelectsItsRow.adby (byte : Byte) : SelectsItsRow.Statement (.adby byte) :=
  selectsItsRow_of_fields _ 0x5 0xF 1 0xF byte 0 rfl rfl (by simp [Machine.rowOf]; rfl)

theorem SelectsItsRow.encb (bit : Bool) : SelectsItsRow.Statement (.encb bit) :=
  selectsItsRow_of_fields _ 0x6 0xF 0 0xF (bitData bit) 0xFE rfl rfl (by rw [bitData_and]; rfl)

theorem SelectsItsRow.encby (byte : Byte) : SelectsItsRow.Statement (.encby byte) :=
  selectsItsRow_of_fields _ 0x6 0xF 1 0xF byte 0 rfl rfl (by simp [Machine.rowOf]; rfl)

theorem SelectsItsRow.decb (bit : Bool) : SelectsItsRow.Statement (.decb bit) :=
  selectsItsRow_of_fields _ 0x7 0xF 0 0xF (bitData bit) 0xFE rfl rfl (by rw [bitData_and]; rfl)

theorem SelectsItsRow.decby (byte : Byte) : SelectsItsRow.Statement (.decby byte) :=
  selectsItsRow_of_fields _ 0x7 0xF 1 0xF byte 0 rfl rfl (by simp [Machine.rowOf]; rfl)

theorem SelectsItsRow.macb (bit : Bool) : SelectsItsRow.Statement (.macb bit) :=
  selectsItsRow_of_fields _ 0x8 0xF 0 0xF (bitData bit) 0xFE rfl rfl (by rw [bitData_and]; rfl)

theorem SelectsItsRow.macby (byte : Byte) : SelectsItsRow.Statement (.macby byte) :=
  selectsItsRow_of_fields _ 0x8 0xF 1 0xF byte 0 rfl rfl (by simp [Machine.rowOf]; rfl)

theorem SelectsItsRow.fin : SelectsItsRow.Statement .fin := rfl

theorem SelectsItsRow.rdtag (k : BitVec 4) : SelectsItsRow.Statement (.rdtag k) :=
  selectsItsRow_of_fields _ 0xA 0xF k 0 0 0xFF rfl rfl (by simp [Machine.rowOf]; rfl)

theorem SelectsItsRow.ldxt (k : BitVec 4) (byte : Byte) : SelectsItsRow.Statement (.ldxt k byte) :=
  selectsItsRow_of_fields _ 0xB 0xF k 0 byte 0 rfl rfl (by simp [Machine.rowOf]; rfl)

theorem SelectsItsRow.vfy : SelectsItsRow.Statement .vfy := rfl

theorem SelectsItsRow.rdst : SelectsItsRow.Statement .rdst := rfl

end Sys2Proof.Laws
end

