-- ==== Sys2Proof/Tests/Slice0.lean ====
section
/-! SUPPORT. Tests of the model, with expected values from the spec's test vectors (95_test_vectors.md) under its demonstration
configuration `TV1`, and for every statement with hypotheses a state that meets them. -/

namespace Sys2Proof.Tests

open Sys2Proof Sys2Proof.Machine

set_option Elab.async false

/-! ### The well-formedness of a tap record: one ill-formed record for each check (00_scope.md R7) -/

theorem test_tv1_wellFormed : Config.tv1.wellFormed = true := by decide

theorem test_six_lfsr_taps_refused :
    (Taps.wellFormed { Config.tv1 with lfsrTaps := [0, 7, 38, 70, 81, 127] }) = false := by decide

theorem test_repeated_lfsr_tap_refused :
    (Taps.sevenLfsrTaps { Config.tv1 with lfsrTaps := [0, 7, 38, 70, 81, 127, 127] }) = false := by decide

theorem test_lfsr_taps_short_of_127_refused :
    (Taps.lfsrTapsSpan { Config.tv1 with lfsrTaps := [0, 7, 38, 70, 81, 96, 126] }) = false := by decide

theorem test_no_linear_nfsr_tap_refused :
    (Taps.nfsrTermsPresent { Config.tv1 with nfsrLinTaps := [] }) = false := by decide

theorem test_one_and_pair_refused :
    (Taps.nfsrTermsPresent { Config.tv1 with nfsrAndPairs := [(3, 67)] }) = false := by decide

theorem test_pair_of_one_position_refused :
    (Taps.nfsrTermsPresent { Config.tv1 with nfsrAndPairs := [(3, 67), (11, 11)] }) = false := by decide

theorem test_empty_monomial_refused : Monomial.wellFormed [] = false := by decide

theorem test_h_without_nfsr_refused :
    (Taps.hTermsPresent { Config.tv1 with hMonomials := [[Config.tapL 93], [Config.tapL 13, Config.tapL 20]] }) = false := by
  decide

theorem test_h_without_product_refused :
    (Taps.hTermsPresent { Config.tv1 with hMonomials := [[Config.tapL 93], [Config.tapN 2]] }) = false := by decide

theorem test_pre_same_taps_as_h_refused :
    (Taps.preTermsDistinct { Config.tv1 with preMonomials := Config.tv1.hMonomials.reverse }) = false := by decide

theorem test_no_pre_refused : (Taps.preTermsDistinct { Config.tv1 with preMonomials := [] }) = false := by decide

/-! ### Decoding: words written out from 30_encoding.md R71, R75, R78 and 95 V19 -/

/-- `op` 2, `a` 3, `d` 0x2A. -/
theorem test_decode_ldk : decode 0b0010_0011_00101010 = .command (.ldk 3 0x2A) := by decide

/-- `op` 5, `a` 0, `d` 1. -/
theorem test_decode_adb : decode 0b0101_0000_00000001 = .command (.adb true) := by decide

/-- `op` 6, `a` 1, `d` 0x74. -/
theorem test_decode_encby : decode 0b0110_0001_01110100 = .command (.encby 0x74) := by decide

/-- `op` A, `a` 7, `d` 0. -/
theorem test_decode_rdtag : decode 0b1010_0111_00000000 = .command (.rdtag 7) := by decide

/-- `op` D, `a` 0, `d` 0. -/
theorem test_decode_rdst : decode 0b1101_0000_00000000 = .command .rdst := by decide

/-- The other words of V19. -/
theorem test_decode_legal :
    [0x2F0F, 0x3B0B, 0x51FF, 0x6001, 0x7001, 0x71B2, 0x81B2, 0xB8FF].map decode =
      [.ldk 15 0x0F, .ldiv 11 0x0B, .adby 0xFF, .encb true, .decb true, .decby 0xB2, .macby 0xB2, .ldxt 8 0xFF].map
        Decoded.command := by decide

/-- The illegal words of V19, class by class. -/
theorem test_decode_illegal :
    [0xE000, 0x0001, 0x0100, 0x1001, 0x90FF, 0xC001, 0xD0D0, 0x6002, 0x5080, 0x6200, 0x5F00, 0x7201, 0xA001].map decode =
      [.reservedOpcode, .operandsNotZero, .operandsNotZero, .operandsNotZero, .operandsNotZero, .operandsNotZero,
        .operandsNotZero, .bitOperandTooWide, .bitOperandTooWide, .reservedWidth, .reservedWidth, .reservedWidth,
        .tagReadDataNotZero].map Decoded.illegal := by decide

theorem test_table_word : decodeTableWord 16 0x71B2 = some (.decby 0xB2) := by decide

/-! ### States of the vectors -/

/-- `TV1` under `AUTH_POLICY` = `PT`. -/
def tvPt : Params := ⟨Config.tv1, .pt⟩

/-- `TV1` under `AUTH_POLICY` = `CT`. -/
def tvCt : Params := ⟨Config.tv1, .ct⟩

/-- The key 00..0F and the IV 00..0B, loaded (95, the standard inputs). -/
def loaded : State :=
  { State.reset with
    key := 0x0F0E0D0C0B0A09080706050403020100
    kv := 0xFFFF
    iv := 0x0B0A09080706050403020100
    ivv := 0xFFF }

/-- The engine of `S0` (V5). -/
def s0Engine : Engine where
  lfsr := 0x1C2E8F24F4D75330BC94A3E1CF894712
  nfsr := 0x385732D3EBD7F6D0DB7E334F09D13C36
  sr := 0x865FB027F32F9D1BACAC792A44C84938
  acc := 0

/-- `S0` (V5). -/
def s0 : State := { loaded with engine := s0Engine, phase := .initialized }

/-- The state of V14 after `FIN` from `S0`. -/
def s0Final : State :=
  { loaded with
    engine :=
      { lfsr := 0x15905710FD869AF01C2E8F24F4D75330
        nfsr := 0x6D9B5B0E41DA226E385732D3EBD7F6D0
        sr := 0x089B109A4B7B069F865FB027F32F9D1B
        acc := 0x7AB50C97F332EAD833C0A1F8E7017726 }
    phase := .finalized }

/-- `s0Final` with the tag of V15 loaded. -/
def s0Expect : State := { s0Final with xtag := 0x33C0A1F8E7017726, xtv := 0xFF }

/-- The engine after eight steps from `S0` (V8), with a given `ACC`. -/
def s0Eight (acc : Reg) : Engine where
  lfsr := 0xF01C2E8F24F4D75330BC94A3E1CF8947
  nfsr := 0x6E385732D3EBD7F6D0DB7E334F09D13C
  sr := 0x9F865FB027F32F9D1BACAC792A44C849
  acc := acc

/-- The engine after one step from `S0` (V7), with a given `ACC`. -/
def s0One (acc : Reg) : Engine where
  lfsr := 0x0E1747927A6BA9985E4A51F0E7C4A389
  nfsr := 0x1C2B9969F5EBFB686DBF19A784E89E1B
  sr := 0xC32FD813F997CE8DD6563C952264249C
  acc := acc

/-- The result is exactly this state. -/
def reaches (r : Result) (t : State) : Bool :=
  match r with
  | .next u => decide (u = t)
  | _ => false

/-! ### One command each -/

/-- V20: `NOP` answers and changes nothing. -/
theorem test_nop : reaches (exec .nop s0) { s0 with rsp := some 0x0000 } = true := by decide

/-- P5: `RST` from a session leaves the reset state. -/
theorem test_rst : reaches (exec .rst s0) { State.reset with rsp := some 0x0000 } = true := by decide

/-- 41 R112 and 30 R78: `LDK 3, 0x2A`. -/
theorem test_ldk : reaches (exec (.ldk 3 0x2A) State.reset)
    { State.reset with key := 0x2A000000, kv := 0x0008, rsp := some 0x0000 } = true := by decide

/-- V20: `2000>4000` on `S0`. -/
theorem test_ldk_after_init : reaches (exec (.ldk 0 0) s0) { s0 with rsp := some 0x4000 } = true := by decide

/-- P5: `3A99`, then `3A0A`: the last write wins. -/
theorem test_ldiv : reaches (exec (.ldiv 10 0x0A) { loaded with iv := 0x0B9909080706050403020100 })
    { loaded with rsp := some 0x0000 } = true := by decide

/-- V20: `3C00>1000` after reset, and `3D00>4000` on `S0`: the phase is checked before the index. -/
theorem test_ldiv_index : (reaches (exec (.ldiv 12 0) State.reset) { State.reset with rsp := some 0x1000 }
    && reaches (exec (.ldiv 13 0) s0) { s0 with rsp := some 0x4000 }) = true := by decide

/-- V5: the whole of `INIT`. -/
theorem test_init : reaches (execWith tvPt .init loaded) { s0 with rsp := some 0x0000 } = true := by decide +kernel

/-- V20: `INIT` with `IVV` = 7FF. -/
theorem test_init_incomplete : reaches (exec .init { loaded with ivv := 0x7FF })
    { loaded with ivv := 0x7FF, rsp := some 0x1000 } = true := by decide

/-- V5: blind clocks 0 and 1. The extra XOR shows in the second. -/
theorem test_blind : (blind Config.tv1 0 (loadedEngine loaded) =
      ⟨0xFFFFFFFF858504840383028201810080, 0x07870686058504840383028201810080, 0, 0⟩)
    ∧ blind Config.tv1 1 ⟨0xFFFFFFFF858504840383028201810080, 0x07870686058504840383028201810080, 0, 0⟩ =
      ⟨0x7FFFFFFFC2C2824201C1814100C08040, 0x03C3834302C2824201C1814100C08040, 0, 0⟩ := by decide +kernel

/-- V5: blind clock 192, the first that shifts `SR`, and the last of them. -/
theorem test_blind_192 : blind Config.tv1 192 ⟨0xCC732799F15ABEB5A7A314854BA05754, 0x5319492675772C51E1ADBB964FE9C9BF, 0, 0⟩ =
      ⟨0x663993CCF8AD5F5AD3D18A42A5D02BAA, 0x298CA4933ABB9628F0D6DDCB27F4E4DF, 0, 0⟩ := by decide +kernel

/-- V5: on `S0`, `FL` = 0, `FN` = 0, `KS` = 1, `PRE` = 1; and 40 R91's example, `FL` = 1. -/
theorem test_datapath_functions :
    fl Config.tv1 s0Engine.lfsr = false ∧ fn Config.tv1 s0Engine.lfsr s0Engine.nfsr = false
      ∧ ks Config.tv1 s0Engine.lfsr s0Engine.nfsr = true ∧ pre Config.tv1 s0Engine.lfsr s0Engine.nfsr = true
      ∧ fl Config.tv1 0xFFFFFFFF0B0A09080706050403020100 = true := by decide +kernel

/-- V7: `STEP` from `S0` for the five rows of the table. -/
theorem test_step_selectors :
    [engineStep Config.tv1 .operand false s0Engine, engineStep Config.tv1 .operand true s0Engine,
      engineStep Config.tv1 .operandXorKs false s0Engine, engineStep Config.tv1 .operandXorKs true s0Engine,
      engineStep Config.tv1 .ks false s0Engine] =
      [s0One 0, s0One s0Engine.sr, s0One s0Engine.sr, s0One 0, s0One s0Engine.sr] := by decide +kernel

/-- V8: `5001>0000`. -/
theorem test_adb : reaches (execWith tvPt (.adb true) s0)
    { s0 with engine := s0One s0Engine.sr, phase := .absorbingAd, rsp := some 0x0000 } = true := by decide +kernel

/-- V8: `5161>0000`. -/
theorem test_adby : reaches (execWith tvPt (.adby 0x61) s0)
    { s0 with engine := s0Eight 0x1DB48B7A4ABA76F10A247A2DE7DFA640, phase := .absorbingAd, rsp := some 0x0000 } = true := by
  decide +kernel

/-- V20: associated data after data. -/
theorem test_ad_after_data : (reaches (exec (.adby 0) { s0 with phase := .generating })
      { s0 with phase := .generating, rsp := some 0x4000 }
    && reaches (exec (.adb true) { s0 with phase := .generating })
      { s0 with phase := .generating, rsp := some 0x4000 }) = true := by decide

/-- V9: `6000>0001` under `CT`, where the ciphertext bit gates. -/
theorem test_encb : reaches (execWith tvCt (.encb false) s0)
    { s0 with engine := s0One s0Engine.sr, phase := .generating, rsp := some 0x0001 } = true := by decide +kernel

/-- V9: `6174>00B2` under `PT`. -/
theorem test_encby : reaches (execWith tvPt (.encby 0x74) s0)
    { s0 with engine := s0Eight 0x2E413F9FC4A0A680958DCE33A9E97DBC, phase := .generating, rsp := some 0x00B2 } = true := by
  decide +kernel

/-- V10: `7001>0000` under `PT`, where the plaintext bit gates. -/
theorem test_decb : reaches (execWith tvPt (.decb true) s0)
    { s0 with engine := s0One 0, phase := .generating, rsp := some 0x0000 } = true := by decide +kernel

/-- V10: `71B2>0074` under `SRC`, where the ciphertext bit gates. -/
theorem test_decby : reaches (execWith ⟨Config.tv1, .src⟩ (.decby 0xB2) s0)
    { s0 with engine := s0Eight 0xE91AD4EA6E4D378A5CA059A134707375, phase := .generating, rsp := some 0x0074 } = true := by
  decide +kernel

/-- V11: `8001>0000`. -/
theorem test_macb : reaches (execWith tvPt (.macb true) s0)
    { s0 with engine := s0One s0Engine.sr, phase := .generating, rsp := some 0x0000 } = true := by decide +kernel

/-- V11: `81B2>0000`. -/
theorem test_macby : reaches (execWith tvPt (.macby 0xB2) s0)
    { s0 with engine := s0Eight 0xE91AD4EA6E4D378A5CA059A134707375, phase := .generating, rsp := some 0x0000 } = true := by
  decide +kernel

/-- V14: `9000>0000`. -/
theorem test_fin : reaches (execWith tvPt .fin s0) { s0Final with rsp := some 0x0000 } = true := by decide +kernel

/-- V20: no command continues from `FINALIZED`. -/
theorem test_fin_twice : (reaches (exec .fin s0Final) { s0Final with rsp := some 0x4000 }
    && reaches (exec (.encby 0) s0Final) { s0Final with rsp := some 0x4000 }) = true := by decide

/-- V14: `A000>0026`, `A700>0033`. -/
theorem test_rdtag : (reaches (exec (.rdtag 0) s0Final) { s0Final with rsp := some 0x0026 }
    && reaches (exec (.rdtag 7) s0Final) { s0Final with rsp := some 0x0033 }) = true := by decide

/-- V20: `A800>1000` in `FINALIZED`, `A900>4000` on `S0`. -/
theorem test_rdtag_index : (reaches (exec (.rdtag 8) s0Final) { s0Final with rsp := some 0x1000 }
    && reaches (exec (.rdtag 9) s0) { s0 with rsp := some 0x4000 }) = true := by decide

/-- V15: `B732>0000` after a verdict clears it. -/
theorem test_ldxt : reaches (exec (.ldxt 7 0x32) { s0Expect with vok := true })
    { s0Expect with xtag := 0x32C0A1F8E7017726, rsp := some 0x0000 } = true := by decide

/-- V20: `B800>1000` on `S0`, `B000>4000` after reset. -/
theorem test_ldxt_index : (reaches (exec (.ldxt 8 0) s0) { s0 with rsp := some 0x1000 }
    && reaches (exec (.ldxt 0 0) State.reset) { State.reset with rsp := some 0x4000 }) = true := by decide

/-- V15: `C000>0000`, and `C000>2000` after `B732`. -/
theorem test_vfy : (reaches (exec .vfy s0Expect) { s0Expect with vok := true, rsp := some 0x0000 }
    && reaches (exec .vfy { s0Expect with xtag := 0x32C0A1F8E7017726 })
      { s0Expect with xtag := 0x32C0A1F8E7017726, vfail := true, rsp := some 0x2000 }) = true := by decide

/-- V20: `C000>1000` with `XTV` = 01. -/
theorem test_vfy_incomplete : reaches (exec .vfy { s0Final with xtv := 0x01 })
    { s0Final with xtv := 0x01, rsp := some 0x1000 } = true := by decide

/-- V15: the `STATUS` walk. -/
theorem test_rdst : [State.reset, loaded, s0, { s0 with phase := .absorbingAd }, { s0 with phase := .generating }, s0Final,
      s0Expect, { s0Expect with vok := true }, { s0Expect with vfail := true }].map status =
    [0x00, 0x18, 0x19, 0x1A, 0x1B, 0x1C, 0x3C, 0x7C, 0xBC] := by decide

/-- 43 R157: `D000` answers the status. -/
theorem test_rdst_answer : reaches (exec .rdst s0) { s0 with rsp := some 0x0019 } = true := by decide

/-! ### The step -/

/-- The word `LDK 3, 0x2A`, placed and run as the first command after reset. -/
theorem test_step_runs_word : reaches (step (State.reset.withFetchWord 16 0x232A))
    { State.reset with key := 0x2A000000, kv := 0x0008, rsp := some 0x0000 } = true := by decide

/-- V19: an illegal word is answered 5000. -/
theorem test_step_illegal : reaches (step (State.reset.withFetchWord 16 0xE000))
    { State.reset with rsp := some 0x5000 } = true := by decide

/-! ### Witnesses: states and operands that meet the statements' hypotheses -/

theorem witness_encodeOfDecode : decode 0x232A = .command (.ldk 3 0x2A) := by decide

theorem witness_decoderFollowsOpcodeMap : rowOf (.rdtag 0) ∈ opcodeRows ∧ (rowOf (.rdtag 0)).selectedBy 0xAF00
    ∧ decode 0xAF00 = .command (.rdtag 15) := by
  refine ⟨by decide, ?_, by decide⟩
  show _ = _
  decide

/-- Both clauses, at the last key byte. -/
theorem witness_ldk : State.reset.phase = .uninit ∧ (15#4).toNat = 15 ∧ s0.phase ≠ .uninit := by decide

/-- The three clauses, at the last index that is legal and the first that is not. -/
theorem witness_ldiv : State.reset.phase = .uninit ∧ (11#4).toNat < 12 ∧ 12 ≤ (12#4).toNat ∧ s0.phase ≠ .uninit := by decide

/-- Both clauses; the second with one key byte missing and with one IV byte missing. -/
theorem witness_init : (loaded.kv = 0xFFFF ∧ loaded.ivv = 0xFFF)
    ∧ ({ loaded with kv := 0x7FFF } : State).kv ≠ 0xFFFF ∧ ({ loaded with ivv := 0x7FF } : State).ivv ≠ 0xFFF := by decide

theorem witness_initAnswers : ∃ t u, execWith tvPt .init loaded = .next t ∧ execWith tvPt .init s0 = .next u
    ∧ loaded.key = s0.key ∧ loaded.iv = s0.iv ∧ s0.kv = 0xFFFF ∧ s0.ivv = 0xFFF :=
  ⟨_, _, initWith_loaded tvPt loaded rfl rfl, initWith_loaded tvPt s0 rfl rfl, rfl, rfl, rfl, rfl⟩

theorem witness_idempotent : (∃ t, exec .init loaded = .next t) ∧ (∃ t, exec .rst s0 = .next t)
    ∧ (∃ t, exec (.rdtag 7) s0Final = .next t) ∧ (∃ t, exec .nop s0 = .next t) ∧ ∃ t, exec .rdst s0 = .next t :=
  ⟨⟨_, initWith_loaded Config.params loaded rfl rfl⟩, ⟨_, rfl⟩, ⟨_, rfl⟩, ⟨_, rfl⟩, ⟨_, rfl⟩⟩

/-- Every phase that a clause of the stream, `FIN`, `RDTAG`, `LDXT` and `VFY` statements names is that of some state. -/
theorem witness_phases : State.reset.phase = .uninit ∧ s0.phase = .initialized
    ∧ ({ s0 with phase := .absorbingAd } : State).phase = .absorbingAd
    ∧ ({ s0 with phase := .generating } : State).phase = .generating ∧ s0Final.phase = .finalized := by decide

theorem keystream_length (T : Taps) (n : Nat) (e : Engine) : (keystream T n e).length = n := by
  induction n generalizing e with
  | zero => rfl
  | succ n ih => rw [keystream, List.length_cons, ih]

/-- The keystream byte that the statement about byte commands speaks of. -/
theorem witness_byteCommandAnswers : ∃ K : Byte, ∀ j, j < 8 →
    (keystream Config.params.taps 8 s0.engine)[j]? = some (K.getLsbD (7 - j)) := by
  have byte : ∀ bs : List Bool, bs.length = 8 → ∃ K : Byte, ∀ j, j < 8 → bs[j]? = some (K.getLsbD (7 - j)) := by
    intro bs h
    match bs, h with
    | [a, b, c, d, e, f, g, i], _ =>
      refine ⟨assembleByte [a, b, c, d, e, f, g, i], ?_⟩
      revert a b c d e f g i
      decide
  exact byte _ (keystream_length _ _ _)

theorem witness_registerPair : (∃ t, execWith tvPt (.adby 0x61) s0 = .next t) ∧ (∃ t, execWith tvPt .fin s0 = .next t)
    ∧ nextPhase (.adby 0x61) s0.phase ≠ none ∧ nextPhase .fin s0.phase ≠ none
    ∧ streamOperand (.adby 0x61) = some (.ad, .byte 0x61) :=
  ⟨⟨_, stream_accepted tvPt .ad _ s0 rfl⟩, ⟨_, finWith_accepted tvPt s0 rfl⟩, by decide, by decide, rfl⟩

/-- Two stream commands, the second in the phase the first leaves. -/
theorem two_complete (C : Params) (k l : StreamKind) (u v : DataUnit) (s : State) (h : streamAccepted k s.phase = true)
    (g : streamAccepted l (streamPhase k) = true) :
    ∃ rs t, issueAll C [unitCommand k u, unitCommand l v] s = .done rs t := by
  rw [issueAll_cons C (issue_stream_accepted C k u s h)]
  rw [issueAll_cons C (issue_stream_accepted C l v _ g)]
  exact ⟨_, _, rfl⟩

/-- Two bits of associated data, and two bits of data: as many steps. -/
theorem witness_keystreamPosition : ∃ rs qs t v,
    issueAll tvPt [.adb true, .adb false] s0 = .done rs t ∧ issueAll tvPt [.encb true, .macb true] s0 = .done qs v
      ∧ [Instr.adb true, .adb false].map streamOperand = [(StreamKind.ad, DataUnit.bit true), (.ad, .bit false)].map some
      ∧ [Instr.encb true, .macb true].map streamOperand = [(StreamKind.enc, DataUnit.bit true), (.mac, .bit true)].map some := by
  obtain ⟨rs, t, h⟩ := two_complete tvPt .ad .ad (.bit true) (.bit false) s0 rfl rfl
  obtain ⟨qs, v, g⟩ := two_complete tvPt .enc .mac (.bit true) (.bit true) s0 rfl rfl
  exact ⟨rs, qs, t, v, h, g, rfl, rfl⟩

/-- A session over one associated-data byte and one data bit runs to its end, for each of the three kinds of data. -/
theorem session_completes (C : Params) (k : StreamKind) (b : Bool) (s : State) (h1 : s.kv = 0xFFFF)
    (h2 : s.ivv = 0xFFF) : ∃ r t, session C [.byte 0x61] [unitCommand k (.bit b)] s = .done [r] t
      ∧ finAccepted t.phase = true := by
  unfold session
  rw [List.map_cons, List.map_nil, issueAll_cons C (issue_init_loaded C s h1 h2)]
  generalize blindClocks C.taps 320 (loadedEngine s) = e
  rw [show adCommand (.byte 0x61) = unitCommand .ad (.byte 0x61) from rfl,
    issueAll_cons C (issue_stream_accepted C .ad (.byte 0x61) _ rfl)]
  simp only [issueAll, andThen]
  rw [issue_stream_accepted C k (.bit b) _ (by cases k <;> rfl)]
  exact ⟨_, _, rfl, by cases k <;> rfl⟩

/-- Encryption, then decryption of what it answered, then tag-only absorption of it; under each policy. -/
theorem witness_sessions (C : Params) : ∃ r t q v m x t' v' x' a b c,
    session C [.byte 0x61] ([DataUnit.bit true].map encCommand) loaded = .done [r] t
      ∧ session C [.byte 0x61] ((List.zipWith DataUnit.reply [.bit true] [r]).map decCommand) loaded = .done [q] v
      ∧ session C [.byte 0x61] ((List.zipWith DataUnit.reply [.bit true] [r]).map macCommand) loaded = .done [m] x
      ∧ issue C .fin t = .done a t' ∧ issue C .fin v = .done b v'
      ∧ issue C .fin x = .done c x' := by
  obtain ⟨r, t, h, ht⟩ := session_completes C .enc true loaded rfl rfl
  obtain ⟨q, v, g, gv⟩ := session_completes C .dec (r.getLsbD 0) loaded rfl rfl
  obtain ⟨m, x, f, fx⟩ := session_completes C .mac (r.getLsbD 0) loaded rfl rfl
  exact ⟨r, t, q, v, m, x, _, _, _, _, _, _, h, g, f, issue_fin_accepted C t ht, issue_fin_accepted C v gv,
    issue_fin_accepted C x fx⟩

/-- The premises on the policy: each side of them holds somewhere. -/
theorem witness_policies : tvPt.authPolicy ≠ .src ∧ tvCt.authPolicy = .ct ∧ tvCt.authPolicy ≠ .pt
    ∧ ([] : List DataUnit) = [] := by decide

theorem witness_flippedBit : GateSel.operand ≠ .ks ∧ GateSel.operandXorKs ≠ .ks := by decide

theorem witness_fin : nextPhase .fin s0.phase ≠ none ∧ ∃ t, execWith tvPt .fin s0 = .next t :=
  ⟨by decide, _, finWith_accepted tvPt s0 rfl⟩

/-- The clauses on an index, at the last legal one and the first that is not, for `RDTAG` and `LDXT`. -/
theorem witness_tagIndex : s0Final.phase = .finalized ∧ (7#4).toNat < 8 ∧ 8 ≤ (8#4).toNat ∧ s0.phase ≠ .finalized
    ∧ s0.phase ≠ .uninit ∧ State.reset.phase = .uninit := by decide

/-- The four clauses of `VFY`: the same tag; another in its last bit; a byte missing; not finalized. -/
theorem witness_vfy : (s0Expect.phase = .finalized ∧ s0Expect.xtv = 0xFF
      ∧ ∀ i, i < 64 → s0Expect.xtag.getLsbD i = s0Expect.engine.acc.getLsbD i)
    ∧ (∃ i, i < 64 ∧ ({ s0Expect with xtag := 0xB3C0A1F8E7017726 } : State).xtag.getLsbD i ≠ s0Expect.engine.acc.getLsbD i)
    ∧ s0Final.xtv ≠ 0xFF ∧ s0.phase ≠ .finalized := by
  refine ⟨⟨rfl, rfl, by decide⟩, ⟨63, by decide, by decide⟩, by decide, by decide⟩

/-- The tag of V14 has eight bytes. -/
theorem witness_verification : [0x26#8, 0x77, 0x01, 0xE7, 0xF8, 0xA1, 0xC0, 0x33].length = 8 ∧ s0Final.phase = .finalized := by
  decide

/-- The clauses on phases and faults: an accepted command; one out of phase; a bad parameter; a tag mismatch. -/
theorem witness_faultClasses :
    exec .nop s0 = .next { s0 with rsp := some 0x0000 } ∧ nextPhase .nop s0.phase = some .initialized
      ∧ exec .vfy s0 = .next { s0 with rsp := some 0x4000 } ∧ nextPhase .vfy s0.phase = none
      ∧ exec (.rdtag 8) s0Final = .next { s0Final with rsp := some 0x1000 }
      ∧ exec .vfy { s0Expect with xtag := 0 } =
        .next { s0Expect with xtag := 0, vok := false, vfail := true, rsp := some 0x2000 } := by
  refine ⟨rfl, by decide, rfl, by decide, rfl, rfl⟩

theorem witness_keyAndIvImmutable : s0.phase ≠ .uninit ∧ Instr.ldk 0 1 ≠ .rst
    ∧ exec (.ldk 0 1) s0 = .next { s0 with rsp := some 0x4000 } := ⟨by decide, by decide, rfl⟩

/-- Two states that differ in every secret and look alike; for the commands that use the keystream and the tag, two that
differ in what these do not show. -/
theorem witness_secrets : SameVisible s0 { s0 with key := 0, iv := 0, engine := ⟨0, 0, 0, 0⟩, xtag := 1 }
    ∧ (usesKeystream (.encb true) ∧ s0.engine.lfsr = ({ s0.engine with sr := 0, acc := 1 } : Engine).lfsr)
    ∧ tag s0Final = tag { s0Final with engine := { s0Final.engine with acc := 0x33C0A1F8E7017726 } }
    ∧ (∃ t, exec .rdst s0 = .next t) ∧ ∃ t, exec (.rdtag 7) s0Final = .next t :=
  ⟨⟨rfl, rfl, rfl, rfl, rfl, rfl, rfl⟩, ⟨⟨.bit true, .inl rfl⟩, rfl⟩, by decide, ⟨_, rfl⟩, ⟨_, rfl⟩⟩

/-- A step that accepts a command, one that accepts an illegal word, and both again after the word was held back. -/
theorem witness_step (w : Word) : ∃ s : State, s.inputs = [offerSample w] ∧ (offerSample w).rstN = true
    ∧ (offerSample w).cmdValid = true ∧ s.rsp = none ∧ s.stalled = some (offerSample w).cmd :=
  ⟨{ State.reset with inputs := [offerSample w], stalled := some w }, rfl, rfl, rfl, rfl, rfl⟩

theorem witness_stepDecodes : decode (offerSample 0x6174).cmd = .command (.encby 0x74)
    ∧ decode (offerSample 0xF123).cmd = .illegal .reservedOpcode := by decide

/-- A response outstanding while a command is offered for the second time. -/
theorem witness_responseBlocks : ∃ s : State, s.inputs = [offerSample 0xD000] ∧ s.rsp = some 0x0019
    ∧ s.stalled = some 0xD000 ∧ ∀ w, s.stalled = some w → (offerSample 0xD000).cmdValid = true → (offerSample 0xD000).cmd = w :=
  ⟨{ s0 with inputs := [offerSample 0xD000], rsp := some 0x0019, stalled := some 0xD000 }, rfl, rfl, rfl,
    fun _ h _ => Option.some.inj h⟩

/-- An idle sample, a reset sample, and an empty list of samples. -/
theorem witness_idle : State.reset.inputs = []
    ∧ ({ s0 with inputs := [⟨true, false, 0, true⟩] } : State).inputs = [⟨true, false, 0, true⟩] ∧ s0.rsp = none
    ∧ ({ s0 with inputs := [⟨false, true, 0, true⟩] } : State).inputs = [⟨false, true, 0, true⟩] := by decide

/-- The one way a step stops: the word changes while a response is still offered, or in the first sample after it was taken
(log entry 7). -/
theorem witness_stops :
    step { s0 with rsp := some 0, stalled := some 0xD000, inputs := [offerSample 0xC000] } =
        .refused .commandChangedWhileStalled
      ∧ step { s0 with rsp := none, stalled := some 0xD000, inputs := [offerSample 0xC000] } =
        .refused .commandChangedWhileStalled := ⟨rfl, rfl⟩

/-- The same word goes on being held back, or is accepted; and an offer may be withdrawn. -/
theorem test_held_back_word :
    step { s0 with rsp := some 0, stalled := some 0xD000, inputs := [offerSample 0xD000] } =
        .next { s0 with rsp := some 0, stalled := some 0xD000 }
      ∧ step { s0 with rsp := none, stalled := some 0xD000, inputs := [offerSample 0xD000] } =
        .next { s0 with rsp := some 0x0019 }
      ∧ step { s0 with rsp := none, stalled := some 0xD000, inputs := [⟨true, false, 0, false⟩] } = .next s0 :=
  ⟨rfl, rfl, rfl⟩

theorem witness_port : ∃ s : State, s.rsp = none ∧ s.stalled = none ∧ s.inputs = transactions [0xD000, 0xE000] :=
  ⟨{ s0 with inputs := transactions [0xD000, 0xE000] }, rfl, rfl, rfl⟩

theorem witness_invariant : s0.Inv ∧ ∃ t, step s0 = .next t := by
  refine ⟨⟨fun _ => ⟨rfl, rfl⟩, rfl, ?_, ⟨?_, ?_⟩, ?_, ⟨by decide, by decide, by decide⟩, ⟨?_, ?_⟩⟩, s0, rfl⟩
  · intro h
    exact absurd h (by decide)
  · intro h
    exact absurd h (by decide)
  · intro h
    exact absurd h (by decide)
  · intro h
    exact absurd h (by decide)
  · intro r h
    exact absurd h (by simp [s0, loaded, State.reset])
  · intro r h
    exact absurd h (by simp [s0, loaded, State.reset])

theorem witness_sums : [true, false, true].Perm [false, true, true] := by decide

/-- Both clauses: the right lengths; a key one byte short. -/
theorem witness_new : ((List.replicate 16 0#8).length = 16 ∧ (List.replicate 12 0#8).length = 12)
    ∧ (List.replicate 15 0#8).length ≠ 16 := by decide

/-- An encryption of one byte runs to its end, under every configuration. -/
theorem witness_encrypt (C : Params) : ∃ ct tg t, encrypt C [0x74] [] loaded = .done (ct, tg) t := by
  have whole : ∀ s : State, finAccepted s.phase = true → ∃ tg t, closeSession C s = .done tg t := by
    intro s h
    unfold closeSession
    rw [issue_fin_accepted C s h]
    simp only [andThen, rdtag8, issueAll]
    generalize finalSteps C.taps 64 s.engine = e
    repeat rw [issue_rdtag_finalized C _ _ rfl (by decide)]; simp only []
    exact ⟨_, _, rfl⟩
  unfold encrypt
  have open_ := issue_init_loaded C loaded rfl rfl
  generalize blindClocks C.taps 320 (loadedEngine loaded) = e at open_
  simp only [openSession, List.map_nil, List.map_cons, issueAll, open_, andThen]
  rw [show Instr.encby 0x74 = unitCommand .enc (.byte 0x74) from rfl, issue_stream_accepted C .enc (.byte 0x74) _ rfl]
  simp only []
  obtain ⟨tg, t, h⟩ := whole
    { loaded with
      engine := (streamSteps C.taps (gateSel .enc C.authPolicy) (unitBits (.byte 0x74)) e).2
      xtag := 0, xtv := 0, vok := false, vfail := false, phase := .generating, rsp := none } rfl
  exact ⟨_, tg, t, by rw [show streamPhase .enc = .generating from rfl, h]⟩

end Sys2Proof.Tests
end

/-! ## Scope: the command set, the sums, and the port driven word by word (spec 00_scope.md) -/

/-! ### The sums (00_scope.md R11, 40_register_pair_and_combiner.md R98) -/

namespace Sys2Proof.Machine

/-- `XORSUM` is the parity of the number of ones. -/
theorem xorSum_eq_true_iff (bs : List Bool) : xorSum bs = true ↔ bs.count true % 2 = 1 := by
  induction bs with
  | nil => decide
  | cons b bs ih =>
    cases b with
    | false => simpa using ih
    | true =>
      rw [xorSum_cons, Bool.true_xor, Bool.not_eq_true', ← Bool.not_eq_true, ih, List.count_cons_self]
      omega

/-- `ANDALL` is 1 exactly when no argument is 0. -/
theorem andAll_eq_true_iff (bs : List Bool) : andAll bs = true ↔ false ∉ bs := by
  induction bs with
  | nil => decide
  | cons b bs ih =>
    rw [andAll_cons, Bool.and_eq_true, ih, List.mem_cons, not_or]
    cases b <;> simp

theorem xorSum_perm {bs cs : List Bool} (h : bs.Perm cs) : xorSum bs = xorSum cs := by
  rw [Bool.eq_iff_iff, xorSum_eq_true_iff, xorSum_eq_true_iff, h.count_eq]

theorem andAll_perm {bs cs : List Bool} (h : bs.Perm cs) : andAll bs = andAll cs := by
  rw [Bool.eq_iff_iff, andAll_eq_true_iff, andAll_eq_true_iff, h.mem_iff]

end Sys2Proof.Machine

/-! ### What one sample of the pins does (30_encoding.md R70) -/

namespace Sys2Proof.Machine

/-- The word held back may only be offered again. -/
theorem changesStalledCommand_eq_false {p : PortInput} {s : State} (h : s.stalled = none ∨ s.stalled = some p.cmd) :
    changesStalledCommand p s = false := by
  unfold changesStalledCommand
  obtain h | h := h <;> simp [h]

/-- A step in which a word is accepted executes it whole. -/
theorem step_accepts {s : State} {p : PortInput} {ps : List PortInput} (hin : s.inputs = p :: ps) (hrst : p.rstN = true)
    (hvalid : p.cmdValid = true) (hrsp : s.rsp = none) (hheld : changesStalledCommand p s = false) :
    step s = runWord p.cmd { s with inputs := ps, stalled := none } := by
  have held : changesStalledCommand p (setInputs ps s) = false := hheld
  have accepted : step s = runWord p.cmd (setStalled none (setInputs ps s)) := by
    simp [step, nextSample, samplePins, hin, hrst, hvalid, hrsp, held]
  exact accepted

/-- A step that finds a response outstanding offers it, and takes it when the host is ready. -/
theorem step_responds {s : State} {p : PortInput} {ps : List PortInput} {r : Word} (hin : s.inputs = p :: ps)
    (hrst : p.rstN = true) (hrsp : s.rsp = some r) (hheld : changesStalledCommand p s = false) :
    step s = .next (responsePhase p r (setInputs ps s)) := by
  have held : changesStalledCommand p (setInputs ps s) = false := hheld
  simp [step, nextSample, samplePins, hin, hrst, hrsp, held]

/-- A run begins with the step that starts it. -/
theorem run_succ {s t : State} (n : Nat) (h : step s = .next t) : core.run (n + 1) s = core.run n t := by
  have hcore : core.step s = .next t := h
  simp [Host.Core.run, hcore]

end Sys2Proof.Machine

/-! ### Commands do not look at the port

Every command answers, and what it does to the registers and answers does not depend on what the host drives, has been held
back from or has taken (00_scope.md R14). -/

namespace Sys2Proof.Machine

/-- The state with the model's own port records replaced. -/
def withPort (st : Option Word) (ps : List PortInput) (tk : List Word) (s : State) : State :=
  { s with stalled := st, inputs := ps, taken := tk }

/-- `f` always answers, and neither reads nor writes the port records. -/
def AnswersAtAnyPort (f : State → Result) : Prop :=
  ∀ s, ∃ t r, f s = .next t ∧ t.rsp = some r ∧ ∀ st ps tk, f (withPort st ps tk s) = .next (withPort st ps tk t)

theorem AnswersAtAnyPort.respond {d : State → Byte} {g : State → State}
    (hd : ∀ st ps tk s, d (withPort st ps tk s) = d s)
    (hg : ∀ st ps tk s, g (withPort st ps tk s) = withPort st ps tk (g s)) :
    AnswersAtAnyPort fun s => Machine.respond (d s) (g s) :=
  fun s => ⟨_, _, rfl, rfl, fun st ps tk => by simp only [hd, hg]; rfl⟩

theorem AnswersAtAnyPort.raise (e : ErrCode) {g : State → State}
    (hg : ∀ st ps tk s, g (withPort st ps tk s) = withPort st ps tk (g s)) :
    AnswersAtAnyPort fun s => Machine.raise e (g s) :=
  fun s => ⟨_, _, rfl, rfl, fun st ps tk => by simp only [hg]; rfl⟩

/-- A check that does not read the port records, before either of two such bodies. -/
theorem AnswersAtAnyPort.ite {c : State → Prop} [∀ s, Decidable (c s)] {f g : State → Result}
    (hc : ∀ st ps tk s, c (withPort st ps tk s) ↔ c s) (hf : AnswersAtAnyPort f) (hg : AnswersAtAnyPort g) :
    AnswersAtAnyPort fun s => if c s then f s else g s := by
  intro s
  by_cases h : c s
  · simpa [h, hc] using hf s
  · simpa [h, hc] using hg s

/-- What such a body leaves of the word held back. -/
theorem AnswersAtAnyPort.stalled_eq {f : State → Result} (hf : AnswersAtAnyPort f) {s t : State} (h : f s = .next t) :
    t.stalled = s.stalled := by
  obtain ⟨u, _, hu, _, any⟩ := hf s
  have own : f s = .next (withPort s.stalled s.inputs s.taken u) := any s.stalled s.inputs s.taken
  cases h.symm.trans own
  rfl

/-- A fault that writes nothing. -/
theorem raise_answersAtAnyPort (e : ErrCode) : AnswersAtAnyPort (raise e) :=
  .raise e (g := id) fun _ _ _ _ => rfl

theorem stream_answersAtAnyPort (C : Params) (kind : StreamKind) (bits : List Bool) :
    AnswersAtAnyPort (stream C kind bits) :=
  .ite (fun _ _ _ _ => Iff.rfl) (.respond (fun _ _ _ _ => rfl) fun _ _ _ _ => rfl) (raise_answersAtAnyPort _)

theorem finWith_answersAtAnyPort (C : Params) : AnswersAtAnyPort (finWith C) :=
  .ite (fun _ _ _ _ => Iff.rfl) (.respond (fun _ _ _ _ => rfl) fun _ _ _ _ => rfl) (raise_answersAtAnyPort _)

theorem initWith_answersAtAnyPort (C : Params) : AnswersAtAnyPort (initWith C) :=
  .ite (fun _ _ _ _ => Iff.rfl) (.respond (fun _ _ _ _ => rfl) fun _ _ _ _ => rfl) (raise_answersAtAnyPort _)

theorem execLdk_answersAtAnyPort (k : BitVec 4) (byte : Byte) : AnswersAtAnyPort (execLdk k byte) :=
  .ite (fun _ _ _ _ => Iff.rfl) (raise_answersAtAnyPort _) (.respond (fun _ _ _ _ => rfl) fun _ _ _ _ => rfl)

theorem execLdiv_answersAtAnyPort (k : BitVec 4) (byte : Byte) : AnswersAtAnyPort (execLdiv k byte) :=
  .ite (fun _ _ _ _ => Iff.rfl) (raise_answersAtAnyPort _)
    (.ite (fun _ _ _ _ => Iff.rfl) (raise_answersAtAnyPort _) (.respond (fun _ _ _ _ => rfl) fun _ _ _ _ => rfl))

theorem execRdtag_answersAtAnyPort (k : BitVec 4) : AnswersAtAnyPort (execRdtag k) :=
  .ite (fun _ _ _ _ => Iff.rfl) (raise_answersAtAnyPort _)
    (.ite (fun _ _ _ _ => Iff.rfl) (raise_answersAtAnyPort _) (.respond (fun _ _ _ _ => rfl) fun _ _ _ _ => rfl))

theorem execLdxt_answersAtAnyPort (k : BitVec 4) (byte : Byte) : AnswersAtAnyPort (execLdxt k byte) :=
  .ite (fun _ _ _ _ => Iff.rfl) (raise_answersAtAnyPort _)
    (.ite (fun _ _ _ _ => Iff.rfl) (raise_answersAtAnyPort _) (.respond (fun _ _ _ _ => rfl) fun _ _ _ _ => rfl))

theorem execVfy_answersAtAnyPort : AnswersAtAnyPort execVfy :=
  .ite (fun _ _ _ _ => Iff.rfl) (raise_answersAtAnyPort _) (.ite (fun _ _ _ _ => Iff.rfl) (raise_answersAtAnyPort _)
    (.ite (fun _ _ _ _ => Iff.rfl) (.respond (fun _ _ _ _ => rfl) fun _ _ _ _ => rfl)
      (.raise _ fun _ _ _ _ => rfl)))

/-- Every command answers and leaves the port records alone. -/
theorem exec_answersAtAnyPort (i : Instr) : AnswersAtAnyPort (exec i) := by
  cases i with
  | nop => exact .respond (g := id) (fun _ _ _ _ => rfl) fun _ _ _ _ => rfl
  | rst => exact .respond (fun _ _ _ _ => rfl) fun _ _ _ _ => rfl
  | ldk k byte => exact execLdk_answersAtAnyPort k byte
  | ldiv k byte => exact execLdiv_answersAtAnyPort k byte
  | init => exact initWith_answersAtAnyPort _
  | adb b => exact stream_answersAtAnyPort _ .ad [b]
  | adby byte => exact stream_answersAtAnyPort _ .ad (byteBits byte)
  | encb b => exact stream_answersAtAnyPort _ .enc [b]
  | encby byte => exact stream_answersAtAnyPort _ .enc (byteBits byte)
  | decb b => exact stream_answersAtAnyPort _ .dec [b]
  | decby byte => exact stream_answersAtAnyPort _ .dec (byteBits byte)
  | macb b => exact stream_answersAtAnyPort _ .mac [b]
  | macby byte => exact stream_answersAtAnyPort _ .mac (byteBits byte)
  | fin => exact finWith_answersAtAnyPort _
  | rdtag k => exact execRdtag_answersAtAnyPort k
  | ldxt k byte => exact execLdxt_answersAtAnyPort k byte
  | vfy => exact execVfy_answersAtAnyPort
  | rdst => exact .respond (g := id) (fun _ _ _ _ => rfl) fun _ _ _ _ => rfl

theorem runWord_command {w : Word} {i : Instr} (h : decode w = .command i) : runWord w = exec i := by
  funext s
  simp [runWord, h]

theorem runWord_illegal {w : Word} {why : IllegalWord} (h : decode w = .illegal why) : runWord w = rejectWord := by
  funext s
  simp [runWord, h]

/-- Every word is answered, a command or not. -/
theorem runWord_answersAtAnyPort (w : Word) : AnswersAtAnyPort (runWord w) := by
  cases h : decode w with
  | command i => rw [runWord_command h]; exact exec_answersAtAnyPort i
  | illegal why => rw [runWord_illegal h]; exact raise_answersAtAnyPort .illegalCommand

end Sys2Proof.Machine

/-! ### The port driven word by word (00_scope.md R16) -/

namespace Sys2Proof.Machine

/-- The sample in which the host takes the response and offers nothing. -/
def takeSample : PortInput := { rstN := true, cmdValid := false, cmd := 0, rspReady := true }

theorem transactions_cons (w : Word) (ws : List Word) :
    transactions (w :: ws) = offerSample w :: takeSample :: transactions ws := rfl

theorem observe_cons {w : Word} {s t : State} {r : Word} (ws : List Word) (h : runWord w s = .next t)
    (hr : t.rsp = some r) : observe (w :: ws) s = (observe ws (setRsp none t)).map fun p => (r :: p.1, p.2) := by
  simp [observe, h, hr]

/-- One transaction: the first step executes the word, the second hands its response to the host. -/
theorem run_transaction {w : Word} {s t : State} {r : Word} (n : Nat) (ps : List PortInput) (tk : List Word)
    (hs : s.rsp = none) (hr : t.rsp = some r)
    (hrun : ∀ st ps tk, runWord w (withPort st ps tk s) = .next (withPort st ps tk t)) :
    core.run (n + 2) (withPort none (offerSample w :: takeSample :: ps) tk s) =
      core.run n (withPort none ps (tk ++ [r]) (setRsp none t)) := by
  have accept : step (withPort none (offerSample w :: takeSample :: ps) tk s) =
      .next (withPort none (takeSample :: ps) tk t) :=
    (step_accepts (s := withPort none (offerSample w :: takeSample :: ps) tk s) rfl rfl rfl hs rfl).trans
      (hrun none (takeSample :: ps) tk)
  have take : step (withPort none (takeSample :: ps) tk t) = .next (withPort none ps (tk ++ [r]) (setRsp none t)) :=
    step_responds (s := withPort none (takeSample :: ps) tk t) rfl rfl hr rfl
  rw [run_succ _ accept, run_succ _ take]

/-- The port refines `runWord`: from any port records, two steps a word lead where `observe` leads, with the responses
`observe` lists joined to those already taken. -/
theorem run_transactions (ws : List Word) (s : State) (tk : List Word) (hs : s.rsp = none) :
    ∃ rs u, observe ws s = some (rs, u) ∧ rs.length = ws.length ∧ u.stalled = s.stalled
      ∧ core.run (2 * ws.length) (withPort none (transactions ws) tk s) = .next (withPort none [] (tk ++ rs) u) := by
  induction ws generalizing s tk with
  | nil => exact ⟨[], s, rfl, rfl, rfl, by rw [List.append_nil]; rfl⟩
  | cons w ws ih =>
    obtain ⟨t, r, ht, hr, any⟩ := runWord_answersAtAnyPort w s
    obtain ⟨rs, u, hobs, hlen, hstalled, hrun⟩ := ih (setRsp none t) (tk ++ [r]) rfl
    refine ⟨r :: rs, u, ?_, by simp [hlen], ?_, ?_⟩
    · rw [observe_cons ws ht hr, hobs]
      rfl
    · calc u.stalled = t.stalled := hstalled
        _ = s.stalled := (runWord_answersAtAnyPort w).stalled_eq ht
    · rw [transactions_cons, List.length_cons, Nat.mul_succ, run_transaction _ _ _ hs hr any, hrun, List.append_assoc]
      rfl

end Sys2Proof.Machine

/-! ### The statements -/

namespace Sys2Proof.Proofs

open Sys2Proof Sys2Proof.Machine

/-- Settles O47: the port refines `runWord`, by induction on the words. -/
theorem portDeliversResponsesInOrder : Obligations.PortDeliversResponsesInOrder := by
  intro ws s hrsp hheld hin
  obtain ⟨rs, u, hobs, hlen, hstalled, hrun⟩ := run_transactions ws s s.taken hrsp
  have start : withPort none (transactions ws) s.taken s = s := by rw [withPort, ← hheld, ← hin]
  have stop : withPort none [] (s.taken ++ rs) u = { u with inputs := [], taken := s.taken ++ rs } := by
    rw [withPort, ← hheld, ← hstalled]
  rw [start, stop] at hrun
  exact ⟨rs, u, hobs, hlen, hrun⟩

/-- Settles O53: parity, conjunction, and that neither sees the order. -/
theorem sumsAreParityAndConjunction : Obligations.SumsAreParityAndConjunction :=
  ⟨xorSum_eq_true_iff, andAll_eq_true_iff, fun _ _ h => ⟨xorSum_perm h, andAll_perm h⟩⟩

/-- Settles O40: each arm of `exec` is the arm of `execWith` at the hardware's parameters. -/
theorem execIsConfigured : Obligations.ExecIsConfigured := by
  intro i s
  cases i <;> rfl

/-- Settles O41: an accepted word is executed, and this one decodes to a command. -/
theorem stepRunsDecodedCommand : Obligations.StepRunsDecodedCommand := by
  intro s p ps i hin hrst hvalid hrsp hheld hdec
  rw [step_accepts hin hrst hvalid hrsp (changesStalledCommand_eq_false hheld), runWord_command hdec]

end Sys2Proof.Proofs

/-! ## State: how a command ends, the frame of each command, the phase table and the invariant (spec 10_state.md) -/

/-! ### How a command ends

Every proof about `exec` below is a case analysis of `Ends`, not of the commands' meanings. -/

namespace Sys2Proof.Machine

/-- What a command that meets its checks answers and leaves in the registers, before the response is put on the port. -/
inductive Accepted (C : Params) (s : State) : Instr → Byte → State → Prop
  | nop : Accepted C s .nop 0 s
  | rst : Accepted C s .rst 0 (resetRegisters s)
  | ldk (k : BitVec 4) (byte : Byte) (phase : s.phase = .uninit) :
      Accepted C s (.ldk k byte) 0 (writeKeyByte k.toNat byte s)
  | ldiv (k : BitVec 4) (byte : Byte) (phase : s.phase = .uninit) (index : k.toNat < 12) :
      Accepted C s (.ldiv k byte) 0 (writeIvByte k.toNat byte s)
  | init (key : s.kv = 0xFFFF) (iv : s.ivv = 0xFFF) : Accepted C s .init 0 (initSession C.taps s)
  | stream {i : Instr} {kind : StreamKind} {unit : DataUnit} (operand : streamOperand i = some (kind, unit))
      (phase : streamAccepted kind s.phase = true) :
      Accepted C s i (streamData kind (streamSteps C.taps (gateSel kind C.authPolicy) (unitBits unit) s.engine).1)
        (setPhase (streamPhase kind)
          (setEngine (streamSteps C.taps (gateSel kind C.authPolicy) (unitBits unit) s.engine).2 s))
  | fin (phase : finAccepted s.phase = true) :
      Accepted C s .fin 0 (setPhase .finalized (setEngine (finalSteps C.taps 64 s.engine) s))
  | rdtag (k : BitVec 4) (phase : s.phase = .finalized) (index : k.toNat < 8) :
      Accepted C s (.rdtag k) (bufRead s.engine.acc k.toNat) s
  | ldxt (k : BitVec 4) (byte : Byte) (phase : s.phase ≠ .uninit) (index : k.toNat < 8) :
      Accepted C s (.ldxt k byte) 0 (clearVerdict (writeXtagByte k.toNat byte s))
  | vfy (phase : s.phase = .finalized) (loaded : s.xtv = 0xFF) (same : s.xtag = tag s) :
      Accepted C s .vfy 0 (setVerdict true s)
  | rdst : Accepted C s .rdst (status s) s

/-- The state a command ends in: out of phase, with a bad parameter, with a tag mismatch, or accepted
(60_exceptions.md R196). -/
inductive Ends (C : Params) (s : State) (i : Instr) : State → Prop
  | rejected (phase : nextPhase i s.phase = none) : Ends C s i (setRsp (some (responseWord .protocolError 0)) s)
  | badParameter (phase : nextPhase i s.phase ≠ none) (bad : badParameter i s = true) :
      Ends C s i (setRsp (some (responseWord .invalidParameter 0)) s)
  | mismatched (command : i = .vfy) (phase : s.phase = .finalized) (loaded : s.xtv = 0xFF) (differ : s.xtag ≠ tag s) :
      Ends C s i (setRsp (some (responseWord .authenticationFailure 0)) (setVerdict false s))
  | accepted {d : Byte} {u : State} (effect : Accepted C s i d u) : Ends C s i (setRsp (some (responseWord .ok d)) u)

/-- The row of the phase table that the commands of one stream kind share (10_state.md R30, 42_stream_commands.md R131). -/
theorem nextPhase_of_streamOperand {i : Instr} {kind : StreamKind} {unit : DataUnit}
    (h : streamOperand i = some (kind, unit)) (p : Phase) :
    nextPhase i p = if streamAccepted kind p then some (streamPhase kind) else none := by
  cases i <;> cases h
  all_goals cases p <;> rfl

/-- Whatever its kind and width, a stream command is `STREAM` on its operand bits (42 R131). -/
theorem execWith_of_streamOperand (C : Params) {i : Instr} {kind : StreamKind} {unit : DataUnit}
    (h : streamOperand i = some (kind, unit)) (s : State) : execWith C i s = stream C kind (unitBits unit) s := by
  cases i <;> cases h <;> rfl

theorem nextPhase_fin (p : Phase) : nextPhase .fin p = if finAccepted p then some .finalized else none := by
  cases p <;> rfl

section Ends

variable {C : Params} {s t : State}

theorem stream_ends {i : Instr} {kind : StreamKind} {unit : DataUnit} (hi : streamOperand i = some (kind, unit))
    (h : execWith C i s = .next t) : Ends C s i t := by
  rw [execWith_of_streamOperand C hi] at h
  cases ha : streamAccepted kind s.phase with
  | true =>
    rw [stream_accepted C kind _ s ha] at h
    cases h
    exact .accepted (.stream hi ha)
  | false =>
    rw [stream_rejected C kind _ s ha] at h
    cases h
    exact .rejected (by rw [nextPhase_of_streamOperand hi, ha]; rfl)

theorem fin_ends (h : finWith C s = .next t) : Ends C s .fin t := by
  cases ha : finAccepted s.phase with
  | true =>
    rw [finWith_accepted C s ha] at h
    cases h
    exact .accepted (.fin ha)
  | false =>
    rw [finWith_rejected C s ha] at h
    cases h
    exact .rejected (by rw [nextPhase_fin, ha]; rfl)

theorem init_ends (h : initWith C s = .next t) : Ends C s .init t := by
  by_cases ready : s.kv = 0xFFFF ∧ s.ivv = 0xFFF
  · obtain ⟨hk, hv⟩ := ready
    rw [initWith_loaded C s hk hv] at h
    cases h
    exact .accepted (.init hk hv)
  · rw [initWith_unloaded C s (not_and_or.mp ready)] at h
    cases h
    exact .badParameter (by simp [nextPhase]) (by simpa [badParameter] using not_and_or.mp ready)

theorem ldk_ends {k : BitVec 4} {byte : Byte} (h : execLdk k byte s = .next t) : Ends C s (.ldk k byte) t := by
  unfold execLdk at h
  split at h
  next hp => cases h; exact .rejected (if_neg hp)
  next hp => cases h; exact .accepted (.ldk k byte (not_not.mp hp))

theorem ldiv_ends {k : BitVec 4} {byte : Byte} (h : execLdiv k byte s = .next t) : Ends C s (.ldiv k byte) t := by
  unfold execLdiv at h
  split at h
  next hp => cases h; exact .rejected (if_neg hp)
  next hp =>
    have phase := not_not.mp hp
    split at h
    next hk => cases h; exact .badParameter (by simp [nextPhase, phase]) (decide_eq_true hk)
    next hk => cases h; exact .accepted (.ldiv k byte phase (not_le.mp hk))

theorem rdtag_ends {k : BitVec 4} (h : execRdtag k s = .next t) : Ends C s (.rdtag k) t := by
  unfold execRdtag at h
  split at h
  next hp => cases h; exact .rejected (if_neg hp)
  next hp =>
    have phase := not_not.mp hp
    split at h
    next hk => cases h; exact .badParameter (by simp [nextPhase, phase]) (decide_eq_true hk)
    next hk => cases h; exact .accepted (.rdtag k phase (not_le.mp hk))

theorem ldxt_ends {k : BitVec 4} {byte : Byte} (h : execLdxt k byte s = .next t) : Ends C s (.ldxt k byte) t := by
  unfold execLdxt at h
  split at h
  next hp => cases h; exact .rejected (if_pos hp)
  next phase =>
    split at h
    next hk => cases h; exact .badParameter (by simp [nextPhase, phase]) (decide_eq_true hk)
    next hk => cases h; exact .accepted (.ldxt k byte phase (not_le.mp hk))

theorem vfy_ends (h : execVfy s = .next t) : Ends C s .vfy t := by
  unfold execVfy at h
  split at h
  next hp => cases h; exact .rejected (if_neg hp)
  next hp =>
    have phase := not_not.mp hp
    split at h
    next hx => cases h; exact .badParameter (by simp [nextPhase, phase]) hx
    next hx =>
      have loaded : s.xtv = 0xFF := by simpa [xtagReady] using hx
      split at h
      next same => cases h; exact .accepted (.vfy phase loaded same)
      next differ => cases h; exact .mismatched rfl phase loaded differ

/-- All that a command can do, under every configuration. -/
theorem execWith_ends {i : Instr} (h : execWith C i s = .next t) : Ends C s i t := by
  cases i with
  | nop => cases h; exact .accepted .nop
  | rst => cases h; exact .accepted .rst
  | ldk k byte => exact ldk_ends h
  | ldiv k byte => exact ldiv_ends h
  | init => exact init_ends h
  | adb b => exact stream_ends rfl h
  | adby byte => exact stream_ends rfl h
  | encb b => exact stream_ends rfl h
  | encby byte => exact stream_ends rfl h
  | decb b => exact stream_ends rfl h
  | decby byte => exact stream_ends rfl h
  | macb b => exact stream_ends rfl h
  | macby byte => exact stream_ends rfl h
  | fin => exact fin_ends h
  | rdtag k => exact rdtag_ends h
  | ldxt k byte => exact ldxt_ends h
  | vfy => exact vfy_ends h
  | rdst => cases h; exact .accepted .rdst

/-- All that a command of the hardware can do. -/
theorem exec_ends {i : Instr} (h : exec i s = .next t) : Ends Config.params s i t :=
  execWith_ends ((Proofs.execIsConfigured i s).symm.trans h)

end Ends

end Sys2Proof.Machine

/-! ### What each command leaves unchanged (10_state.md R33) -/

namespace Sys2Proof.Machine

section Frames

variable {C : Params} {s u : State} {i : Instr} {d : Byte}

theorem Accepted.engine_eq (h : Accepted C s i d u) (hi : writesEngine i = false) : u.engine = s.engine := by
  cases h with
  | rst => cases hi
  | init => cases hi
  | fin => cases hi
  | stream operand => simp [writesEngine, operand] at hi
  | _ => rfl

theorem Accepted.key_eq (h : Accepted C s i d u) (hk : ∀ k b, i ≠ .ldk k b) (hr : i ≠ .rst) :
    u.key = s.key ∧ u.kv = s.kv := by
  cases h with
  | rst => exact absurd rfl hr
  | ldk k byte => exact absurd rfl (hk k byte)
  | _ => exact ⟨rfl, rfl⟩

theorem Accepted.iv_eq (h : Accepted C s i d u) (hv : ∀ k b, i ≠ .ldiv k b) (hr : i ≠ .rst) :
    u.iv = s.iv ∧ u.ivv = s.ivv := by
  cases h with
  | rst => exact absurd rfl hr
  | ldiv k byte => exact absurd rfl (hv k byte)
  | _ => exact ⟨rfl, rfl⟩

theorem Accepted.xtag_eq (h : Accepted C s i d u) (hx : ∀ k b, i ≠ .ldxt k b) (hi : i ≠ .init) (hr : i ≠ .rst) :
    u.xtag = s.xtag ∧ u.xtv = s.xtv := by
  cases h with
  | rst => exact absurd rfl hr
  | init => exact absurd rfl hi
  | ldxt k byte => exact absurd rfl (hx k byte)
  | _ => exact ⟨rfl, rfl⟩

theorem Accepted.phase_eq (h : Accepted C s i d u) (ho : streamOperand i = none) (hi : i ≠ .init) (hf : i ≠ .fin)
    (hr : i ≠ .rst) : u.phase = s.phase := by
  cases h with
  | rst => exact absurd rfl hr
  | init => exact absurd rfl hi
  | fin => exact absurd rfl hf
  | stream operand => exact absurd (operand.symm.trans ho) (Option.some_ne_none _)
  | _ => rfl

theorem Accepted.verdict_eq (h : Accepted C s i d u) (hx : ∀ k b, i ≠ .ldxt k b) (hv : i ≠ .vfy) (hi : i ≠ .init)
    (hr : i ≠ .rst) : u.vok = s.vok ∧ u.vfail = s.vfail := by
  cases h with
  | rst => exact absurd rfl hr
  | init => exact absurd rfl hi
  | ldxt k byte => exact absurd rfl (hx k byte)
  | vfy => exact absurd rfl hv
  | _ => exact ⟨rfl, rfl⟩

theorem Accepted.port_eq (h : Accepted C s i d u) :
    u.rsp = s.rsp ∧ u.stalled = s.stalled ∧ u.inputs = s.inputs ∧ u.taken = s.taken := by
  cases h <;> exact ⟨rfl, rfl, rfl, rfl⟩

end Frames

end Sys2Proof.Machine

/-! ### Responses and the phase table (10_state.md R30, 30_encoding.md R72, R73) -/

namespace Sys2Proof.Machine

theorem errCode_injective : Function.Injective errCode := by
  intro e f
  cases e <;> cases f <;> decide

/-- The response shows which fault it reports. -/
theorem errCode_eq_of_responseWord_eq {e f : ErrCode} {d b : Byte} (h : responseWord e d = responseWord f b) : e = f :=
  errCode_injective (by rw [← errField_responseWord e d, h, errField_responseWord])

/-- Only the reserved code 3 is never answered (30 R73). -/
theorem responseLegal_responseWord {e : ErrCode} {d : Byte} (he : e ≠ .misuseError) (hd : e ≠ .ok → d = 0) :
    ResponseLegal (responseWord e d) := by
  refine ⟨reserved_responseWord e d, ?_, ?_⟩
  · rw [errField_responseWord]
    cases e with
    | misuseError => exact absurd rfl he
    | _ => decide
  · rw [errField_responseWord, dataField_responseWord]
    exact fun h => hd fun hok => h (by rw [hok]; rfl)

theorem Accepted.nextPhase_eq {C : Params} {s u : State} {i : Instr} {d : Byte} (h : Accepted C s i d u) :
    nextPhase i s.phase = some u.phase := by
  cases h with
  | nop | rdst | rst | init => rfl
  | ldk _ _ phase | ldiv _ _ phase => exact if_pos phase
  | stream operand phase => rw [nextPhase_of_streamOperand operand, if_pos phase]; rfl
  | fin phase => rw [nextPhase_fin, if_pos phase]; rfl
  | rdtag _ phase | vfy phase => exact if_pos phase
  | ldxt _ _ phase => exact if_neg phase

/-- What a cell of the phase table other than `P` demands of a response that is not `ProtocolError`. -/
theorem phaseCell_of_response {s u : State} {p : Phase} {e : ErrCode} (d : Byte) (he : e ≠ .protocolError)
    (hok : e = .ok → u.phase = p) (hfault : e ≠ .ok → u.phase = s.phase) :
    some (responseWord e d) ≠ some 0x4000 ∧ (some (errField (responseWord e d)) = some 0 → u.phase = p)
      ∧ (some (errField (responseWord e d)) ≠ some 0 → u.phase = s.phase) := by
  rw [errField_responseWord]
  refine ⟨fun h => he ?_, fun h => hok ?_, fun h => hfault ?_⟩
  · exact errCode_eq_of_responseWord_eq (b := 0) (Option.some.inj h)
  · exact errCode_injective (Option.some.inj h)
  · rintro rfl
    exact h rfl

end Sys2Proof.Machine

/-! ### The invariant (10_state.md R35): what each operation on the state keeps of it -/

namespace Sys2Proof.Machine

theorem bufRead_zero {n : Nat} (k : Nat) : bufRead (0 : BitVec n) k = 0 := by
  simp [bufRead]

/-- Writing a byte with its valid bit keeps the bytes 0 that nothing has written (93_implementation_defined.md U13). -/
theorem unwrittenZero_write {n m : Nat} (B : BitVec n) (M : BitVec m) (k : Nat) (v : Byte) (size : n = 8 * m)
    (h : ∀ j, j < m → M.getLsbD j = false → bufRead B j = 0) :
    ∀ j, j < m → (markWritten M k).getLsbD j = false → bufRead (bufWrite B k v) j = 0 := by
  intro j hj unwritten
  rw [getLsbD_markWritten M k j hj, Bool.or_eq_false_iff, decide_eq_false_iff_not] at unwritten
  obtain ⟨other, before⟩ := unwritten
  rw [bufRead_bufWrite_other B j k v other (by omega), h j hj before]

section Invariant

variable {s : State}

/-- Only a finalized session has a verdict. -/
theorem State.Inv.noVerdict (hs : s.Inv) (hp : s.phase ≠ .finalized) : s.vok = false ∧ s.vfail = false := by
  constructor <;> rw [← Bool.not_eq_true] <;> intro h
  · exact hp (hs.verdictFinal (.inl h)).1
  · exact hp (hs.verdictFinal (.inr h)).1

theorem inv_resetRegisters (legal : (∀ r, s.rsp = some r → ResponseLegal r) ∧ ∀ r ∈ s.taken, ResponseLegal r) :
    (resetRegisters s).Inv where
  instanceLoaded h := absurd rfl h
  verdictExclusive := rfl
  verdictFinal := nofun
  verdictTrue := ⟨nofun, nofun⟩
  uninitClean _ := ⟨rfl, rfl, rfl⟩
  unwrittenZero := ⟨fun k _ _ => bufRead_zero k, fun k _ _ => bufRead_zero k, fun k _ _ => bufRead_zero k⟩
  responsesLegal := legal

theorem inv_setRsp (hs : s.Inv) {o : Option Word} (legal : ∀ r, o = some r → ResponseLegal r) : (setRsp o s).Inv :=
  { hs with responsesLegal := ⟨legal, hs.responsesLegal.2⟩ }

theorem inv_setStalled (hs : s.Inv) (o : Option Word) : (setStalled o s).Inv := { hs with }

theorem inv_setInputs (hs : s.Inv) (ps : List PortInput) : (setInputs ps s).Inv := { hs with }

theorem inv_writeKeyByte (hs : s.Inv) (hp : s.phase = .uninit) (k : Nat) (byte : Byte) : (writeKeyByte k byte s).Inv :=
  { hs with
    instanceLoaded := fun h => absurd hp h
    unwrittenZero := by
      obtain ⟨key, iv, xtag⟩ := hs.unwrittenZero
      exact ⟨unwrittenZero_write _ _ k byte rfl key, iv, xtag⟩ }

theorem inv_writeIvByte (hs : s.Inv) (hp : s.phase = .uninit) (k : Nat) (byte : Byte) : (writeIvByte k byte s).Inv :=
  { hs with
    instanceLoaded := fun h => absurd hp h
    unwrittenZero := by
      obtain ⟨key, iv, xtag⟩ := hs.unwrittenZero
      exact ⟨key, unwrittenZero_write _ _ k byte rfl iv, xtag⟩ }

/-- `LDXT` drops the verdict with the tag it was about. -/
theorem inv_clearVerdict_writeXtagByte (hs : s.Inv) (hp : s.phase ≠ .uninit) (k : Nat) (byte : Byte) :
    (clearVerdict (writeXtagByte k byte s)).Inv :=
  { hs with
    verdictExclusive := rfl
    verdictFinal := nofun
    verdictTrue := ⟨nofun, nofun⟩
    uninitClean := fun h => absurd h hp
    unwrittenZero := by
      obtain ⟨key, iv, xtag⟩ := hs.unwrittenZero
      exact ⟨key, iv, unwrittenZero_write _ _ k byte rfl xtag⟩ }

theorem inv_initSession (hs : s.Inv) (hk : s.kv = 0xFFFF) (hv : s.ivv = 0xFFF) (T : Taps) : (initSession T s).Inv :=
  { hs with
    instanceLoaded := fun _ => ⟨hk, hv⟩
    verdictExclusive := rfl
    verdictFinal := nofun
    verdictTrue := ⟨nofun, nofun⟩
    uninitClean := nofun
    unwrittenZero := by
      obtain ⟨key, iv, _⟩ := hs.unwrittenZero
      exact ⟨key, iv, fun k _ _ => bufRead_zero k⟩ }

/-- The engine moves, and the phase with it, only within a session, where there is no verdict yet. -/
theorem inv_setPhase_setEngine (hs : s.Inv) (hu : s.phase ≠ .uninit) (hf : s.phase ≠ .finalized) (e : Engine)
    {p : Phase} (hp : p ≠ .uninit) : (setPhase p (setEngine e s)).Inv := by
  obtain ⟨noVok, noVfail⟩ := hs.noVerdict hf
  exact
    { hs with
      instanceLoaded := fun _ => hs.instanceLoaded hu
      verdictFinal := by simp [noVok, noVfail]
      verdictTrue := by simp [noVok, noVfail]
      uninitClean := fun h => absurd h hp }

/-- A verdict is entered in `finalized`, about a whole expected tag, as the comparison came out. -/
theorem inv_setVerdict (hs : s.Inv) (hp : s.phase = .finalized) (hx : s.xtv = 0xFF) {m : Bool}
    (hm : m = true ↔ s.xtag = tag s) : (setVerdict m s).Inv :=
  { hs with
    verdictExclusive := Bool.and_not_self m
    verdictFinal := fun _ => ⟨hp, hx⟩
    verdictTrue := ⟨hm.mp, fun h same => by
      rw [setVerdict_vfail, hm.mpr same] at h
      cases h⟩ }

/-! ### Every command and every sample of the pins keeps the invariant -/

/-- The phases of a session in which the engine moves. -/
theorem streamAccepted_session {kind : StreamKind} {p : Phase} (h : streamAccepted kind p = true) :
    p ≠ .uninit ∧ p ≠ .finalized := by
  constructor <;> rintro rfl <;> cases kind <;> cases h

theorem finAccepted_session {p : Phase} (h : finAccepted p = true) : p ≠ .uninit ∧ p ≠ .finalized := by
  constructor <;> rintro rfl <;> cases h

theorem streamPhase_ne_uninit (kind : StreamKind) : streamPhase kind ≠ .uninit := by
  cases kind <;> decide

theorem Accepted.inv {C : Params} {u : State} {i : Instr} {d : Byte} (h : Accepted C s i d u) (hs : s.Inv) : u.Inv := by
  cases h with
  | nop | rdst | rdtag => exact hs
  | rst => exact inv_resetRegisters hs.responsesLegal
  | ldk k byte phase => exact inv_writeKeyByte hs phase k.toNat byte
  | ldiv k byte phase => exact inv_writeIvByte hs phase k.toNat byte
  | init key iv => exact inv_initSession hs key iv C.taps
  | stream _ phase =>
    obtain ⟨hu, hf⟩ := streamAccepted_session phase
    exact inv_setPhase_setEngine hs hu hf _ (streamPhase_ne_uninit _)
  | fin phase =>
    obtain ⟨hu, hf⟩ := finAccepted_session phase
    exact inv_setPhase_setEngine hs hu hf _ nofun
  | ldxt k byte phase => exact inv_clearVerdict_writeXtagByte hs phase k.toNat byte
  | vfy phase loaded same => exact inv_setVerdict hs phase loaded (iff_of_true rfl same)

/-- Putting a response of the core on the port. -/
theorem inv_answer (hs : s.Inv) {e : ErrCode} {d : Byte} (he : e ≠ .misuseError) (hd : e ≠ .ok → d = 0) :
    (setRsp (some (responseWord e d)) s).Inv :=
  inv_setRsp hs fun _ h => Option.some.inj h ▸ responseLegal_responseWord he hd

theorem Ends.inv {C : Params} {t : State} {i : Instr} (h : Ends C s i t) (hs : s.Inv) : t.Inv := by
  cases h with
  | rejected | badParameter => exact inv_answer hs (by decide) fun _ => rfl
  | mismatched _ phase loaded differ =>
    exact inv_answer (inv_setVerdict hs phase loaded (iff_of_false Bool.false_ne_true differ)) (by decide) fun _ => rfl
  | accepted effect => exact inv_answer (effect.inv hs) (by decide) fun h => absurd rfl h

theorem inv_runWord (hs : s.Inv) {w : Word} {t : State} (h : runWord w s = .next t) : t.Inv := by
  cases hw : decode w with
  | command i =>
    rw [runWord_command hw] at h
    exact (exec_ends h).inv hs
  | illegal why =>
    rw [runWord_illegal hw] at h
    cases h
    exact inv_answer hs (by decide) fun _ => rfl

theorem inv_hardwareReset (hs : s.Inv) : (hardwareReset s).Inv :=
  inv_setStalled (inv_setRsp (o := none) (inv_resetRegisters hs.responsesLegal) nofun) none

/-- A response that the host takes moves from the port to the record of those taken. -/
theorem inv_responsePhase (hs : s.Inv) {r : Word} (hr : s.rsp = some r) (p : PortInput) : (responsePhase p r s).Inv := by
  have held := inv_setStalled hs (offered p)
  unfold responsePhase
  split
  · exact
      { held with
        responsesLegal := ⟨nofun, by
          obtain ⟨outstanding, taken⟩ := hs.responsesLegal
          exact List.forall_mem_append.mpr ⟨taken, List.forall_mem_singleton.mpr (outstanding r hr)⟩⟩ }
  · exact held

theorem inv_samplePins (hs : s.Inv) {p : PortInput} {t : State} (h : samplePins p s = .next t) : t.Inv := by
  unfold samplePins at h
  split at h
  · cases h
    exact inv_hardwareReset hs
  split at h
  · cases h
  split at h
  next r hr =>
    cases h
    exact inv_responsePhase hs hr p
  next =>
    split at h
    · exact inv_runWord (inv_setStalled hs none) h
    · cases h
      exact inv_setStalled hs none

end Invariant

end Sys2Proof.Machine

/-! ### The statements -/

namespace Sys2Proof.Proofs

open Sys2Proof Sys2Proof.Machine

/-- Settles O49: a step takes one sample of the pins or does nothing, and each part of a sample keeps the invariant. -/
theorem stepKeepsInvariant : Obligations.StepKeepsInvariant := by
  intro s t hs h
  change nextSample s = .next t at h
  unfold nextSample at h
  split at h
  next =>
    cases h
    exact hs
  next p ps _ => exact inv_samplePins (inv_setInputs hs ps) h

/-- Settles O33, by the ways a command ends. -/
theorem phaseTableHolds : Obligations.PhaseTableHolds := by
  intro i s t h
  cases exec_ends h with
  | rejected phase => exact ⟨fun _ => rfl, fun p hp => absurd (phase.symm.trans hp) nofun⟩
  | badParameter phase bad =>
    exact ⟨fun hp => absurd hp phase, fun p _ => phaseCell_of_response 0 nofun nofun fun _ => rfl⟩
  | mismatched command phase =>
    have accepts : nextPhase i s.phase = some s.phase := by rw [command]; exact if_pos phase
    exact ⟨fun hp => absurd (accepts.symm.trans hp) nofun,
      fun p _ => phaseCell_of_response 0 nofun nofun fun _ => rfl⟩
  | accepted effect =>
    have row := effect.nextPhase_eq
    exact ⟨fun hp => absurd (row.symm.trans hp) nofun, fun p hp =>
      phaseCell_of_response _ nofun (fun _ => Option.some.inj (row.symm.trans hp)) fun hne => absurd rfl hne⟩

/-- Settles O37: a fault writes the response, a failed `VFY` the flags too, and an accepted command what R33 lists. -/
theorem onlyListedCommandsWrite : Obligations.OnlyListedCommandsWrite := by
  intro i s t h
  cases exec_ends h with
  | rejected | badParameter =>
    exact ⟨fun _ => rfl, fun _ _ => ⟨rfl, rfl⟩, fun _ _ => ⟨rfl, rfl⟩, fun _ _ _ => ⟨rfl, rfl⟩, fun _ _ _ _ => rfl,
      fun _ _ _ _ => ⟨rfl, rfl⟩, rfl, rfl, rfl⟩
  | mismatched command =>
    exact ⟨fun _ => rfl, fun _ _ => ⟨rfl, rfl⟩, fun _ _ => ⟨rfl, rfl⟩, fun _ _ _ => ⟨rfl, rfl⟩, fun _ _ _ _ => rfl,
      fun _ hv _ _ => absurd command hv, rfl, rfl, rfl⟩
  | accepted effect =>
    obtain ⟨_, port⟩ := effect.port_eq
    exact ⟨effect.engine_eq, effect.key_eq, effect.iv_eq, effect.xtag_eq, effect.phase_eq, effect.verdict_eq, port⟩

/-- Settles O38: the two loads are accepted in `UNINIT` only. -/
theorem keyAndIvImmutable : Obligations.KeyAndIvImmutable := by
  intro i s t hp hr h
  cases exec_ends h with
  | rejected | badParameter | mismatched => exact ⟨rfl, rfl, rfl, rfl⟩
  | accepted effect =>
    cases effect with
    | rst => exact absurd rfl hr
    | ldk _ _ phase | ldiv _ _ phase => exact absurd phase hp
    | _ => exact ⟨rfl, rfl, rfl, rfl⟩

/-- Settles O48: each register of `State.reset`, and the status byte computed from them. -/
theorem resetState : Obligations.ResetState := by
  refine ⟨rfl, rfl, rfl, rfl, rfl, rfl, rfl, rfl, rfl, rfl, ?status, rfl, rfl⟩
  case status => decide

/-- Settles O50: resetting the registers of the reset state changes nothing. -/
theorem resetMeetsInvariant : Obligations.ResetMeetsInvariant :=
  inv_resetRegisters (s := State.reset) ⟨nofun, nofun⟩

end Sys2Proof.Proofs

/-! ## Memory: what a command repeated, split into bits, or fed byte by byte leaves (spec 20_memory.md) -/

/-! ### The blind clocks forget `SR`

Neither register of the pair reads `SR`, and the last 128 of the 320 blind clocks replace every bit of it (41_setup_and_init.md
R114, R115). -/

namespace Sys2Proof.Machine

theorem engine_ext {e f : Engine} (hl : e.lfsr = f.lfsr) (hn : e.nfsr = f.nfsr) (hs : e.sr = f.sr) (ha : e.acc = f.acc) :
    e = f := by
  cases e
  cases f
  simp_all

theorem blind_lfsr (T : Taps) (i : Nat) (e : Engine) : (blind T i e).lfsr = xorTop (clockBit T e) (clock T e).lfsr := by
  unfold blind
  split <;> rfl

theorem blind_nfsr (T : Taps) (i : Nat) (e : Engine) : (blind T i e).nfsr = xorTop (clockBit T e) (clock T e).nfsr := by
  unfold blind
  split <;> rfl

theorem blind_acc (T : Taps) (i : Nat) (e : Engine) : (blind T i e).acc = e.acc := by
  unfold blind
  split <;> rfl

/-- From blind clock 192 on, `SR` takes the pre-output bit of the pair as the clock leaves it. -/
theorem blind_sr (T : Taps) {i : Nat} (hi : 192 ≤ i) (e : Engine) :
    (blind T i e).sr = shiftIn (pre T (blind T i e).lfsr (blind T i e).nfsr) e.sr := by
  simp only [blind, if_pos hi, advanceSr_lfsr, advanceSr_nfsr, advanceSr_sr, mixKeystream_sr, clock_sr]

theorem blindClocks_acc (T : Taps) (n : Nat) (e : Engine) : (blindClocks T n e).acc = e.acc := by
  induction n with
  | zero => rw [blindClocks_zero]
  | succ n ih => rw [blindClocks_succ, blind_acc, ih]

/-- The register pair after any number of blind clocks depends on the register pair before them only. -/
theorem blindClocks_pair_congr (T : Taps) {e f : Engine} (hl : e.lfsr = f.lfsr) (hn : e.nfsr = f.nfsr) (n : Nat) :
    (blindClocks T n e).lfsr = (blindClocks T n f).lfsr ∧ (blindClocks T n e).nfsr = (blindClocks T n f).nfsr := by
  induction n with
  | zero => simp only [blindClocks_zero, hl, hn, and_self]
  | succ n ih =>
    obtain ⟨ihl, ihn⟩ := ih
    simp only [blindClocks_succ, blind_lfsr, blind_nfsr, clockBit_congr T ihl ihn, clock_lfsr, clock_nfsr, ihl, ihn, and_self]

/-- The last `k` bits of `SR` are the pre-output bits of the blind clocks 192 to `192 + k - 1`. -/
theorem blindClocks_sr_bit (T : Taps) (e : Engine) {k j : Nat} (hk : k ≤ 128) (hj : j < k) :
    (blindClocks T (192 + k) e).sr.getLsbD (128 - k + j) =
      pre T (blindClocks T (193 + j) e).lfsr (blindClocks T (193 + j) e).nfsr := by
  induction k with
  | zero => exact absurd hj (Nat.not_lt_zero j)
  | succ k ih =>
    have shifted : (blindClocks T (192 + (k + 1)) e).sr =
        shiftIn (pre T (blindClocks T (193 + k) e).lfsr (blindClocks T (193 + k) e).nfsr) (blindClocks T (192 + k) e).sr := by
      rw [← Nat.add_assoc, show 193 + k = 192 + k + 1 by omega, blindClocks_succ]
      exact blind_sr T (by omega) _
    rw [shifted, getLsbD_shiftIn _ _ _ (by omega)]
    by_cases last : j = k
    · rw [last, if_pos (by omega)]
    · rw [if_neg (by omega), show 128 - (k + 1) + j + 1 = 128 - k + j by omega, ih (by omega) (by omega)]

/-- After `INIT`'s 320 blind clocks nothing of the old `SR` is left (41 R115 corner case (b), 10_state.md R34). -/
theorem blindClocks_forgets_sr (T : Taps) {e f : Engine} (hl : e.lfsr = f.lfsr) (hn : e.nfsr = f.nfsr) (ha : e.acc = f.acc) :
    blindClocks T 320 e = blindClocks T 320 f := by
  have same_sr : (blindClocks T 320 e).sr = (blindClocks T 320 f).sr := by
    apply BitVec.eq_of_getLsbD_eq
    intro j hj
    have bit (g : Engine) := blindClocks_sr_bit T g (Nat.le_refl 128) hj
    rw [Nat.sub_self, Nat.zero_add] at bit
    obtain ⟨pl, pn⟩ := blindClocks_pair_congr T hl hn (193 + j)
    rw [bit e, bit f, pl, pn]
  have same_acc : (blindClocks T 320 e).acc = (blindClocks T 320 f).acc := by
    rw [blindClocks_acc, blindClocks_acc, ha]
  obtain ⟨same_lfsr, same_nfsr⟩ := blindClocks_pair_congr T hl hn 320
  exact engine_ext same_lfsr same_nfsr same_sr same_acc

end Sys2Proof.Machine

/-! ### Commands that may be repeated (20_memory.md R61) -/

namespace Sys2Proof.Machine

/-- From the same key and IV, `INIT` leaves the same cipher registers. -/
theorem blindClocks_loadedEngine (T : Taps) {s u : State} (hkey : s.key = u.key) (hiv : s.iv = u.iv) :
    blindClocks T 320 (loadedEngine s) = blindClocks T 320 (loadedEngine u) :=
  blindClocks_forgets_sr T (by simp only [loadedEngine, hiv]) hkey rfl

/-- `INIT` changes neither the key nor the IV it loads. -/
theorem initWith_idempotent (C : Params) {s t : State} (hk : s.kv = 0xFFFF) (hv : s.ivv = 0xFFF)
    (h : initWith C s = .next t) : initWith C t = .next t := by
  rw [initWith_loaded C s hk hv] at h
  have again : ∀ u : State, u.key = s.key → u.iv = s.iv →
      blindClocks C.taps 320 (loadedEngine u) = blindClocks C.taps 320 (loadedEngine s) :=
    fun u hkey hiv => blindClocks_loadedEngine C.taps hkey hiv
  generalize blindClocks C.taps 320 (loadedEngine s) = e at h again
  cases h
  rw [initWith_loaded C _ (by exact hk) (by exact hv), again _ (by rfl) (by rfl)]

/-- The commands that read and never write: `NOP`, `RDST`, `RDTAG`. -/
def ReadOnly (i : Instr) : Prop := i = .nop ∨ i = .rdst ∨ ∃ k, i = .rdtag k

theorem exec_readOnly {i : Instr} (hi : ReadOnly i) {s t : State} (h : exec i s = .next t) : t = setRsp t.rsp s := by
  cases exec_ends h with
  | rejected | badParameter => rfl
  | mismatched command =>
    subst command
    exact absurd hi (by simp [ReadOnly])
  | accepted effect =>
    cases effect with
    | nop | rdst | rdtag => rfl
    | stream operand => obtain rfl | rfl | ⟨k, rfl⟩ := hi <;> exact absurd operand nofun
    | _ => exact absurd hi (by simp [ReadOnly])

/-- What such a command answers does not depend on the response it replaces. -/
theorem exec_readOnly_setRsp {i : Instr} (hi : ReadOnly i) (r : Option Word) (s : State) : exec i (setRsp r s) = exec i s := by
  obtain rfl | rfl | ⟨k, rfl⟩ := hi <;> rfl

end Sys2Proof.Machine

namespace Sys2Proof.Proofs

open Sys2Proof Sys2Proof.Machine

/-- Settles O13: the blind clocks forget what the first `INIT` left in `SR`, and a read-only command does not read the response it
replaces. -/
theorem idempotentCommands : Obligations.IdempotentCommands := by
  refine ⟨?init, ?rst, ?readOnly⟩
  case init => exact fun s t hk hv h => initWith_idempotent Config.params hk hv h
  case rst =>
    intro s t h
    cases h
    rfl
  case readOnly =>
    intro i s t hi h
    have same : t = setRsp t.rsp s := exec_readOnly hi h
    refine ⟨same, ?_⟩
    rw [same, exec_readOnly_setRsp hi, h, ← same]

end Sys2Proof.Proofs

/-! ### A byte command is eight bit commands (20_memory.md R55, R59) -/

namespace Sys2Proof.Machine

theorem getElem_byteBits (d : Byte) (j : Nat) (h : j < (byteBits d).length) : (byteBits d)[j] = d.getLsbD (7 - j) := by
  have hj : j < 8 := h
  interval_cases j <;> rfl

/-- The result bits stand in the byte with the last one lowest (42_stream_commands.md R131). -/
theorem getLsbD_assembleByte (bs : List Bool) {i : Nat} (hi : i < 8) :
    (assembleByte bs).getLsbD i = bs.reverse[i]?.getD false := by
  induction bs using List.reverseRecOn generalizing i with
  | nil => simp [assembleByte]
  | append_singleton bs b ih =>
    have appended : assembleByte (bs ++ [b]) = assembleByte bs <<< 1 ||| (BitVec.ofBool b).setWidth 8 :=
      List.foldl_append ..
    rw [appended, BitVec.getLsbD_or, BitVec.getLsbD_shiftLeft, BitVec.getLsbD_setWidth, BitVec.getLsbD_ofBool,
      List.reverse_concat]
    cases i with
    | zero => simp
    | succ i => simpa [hi] using ih (by omega)

/-- What a stream command on one bit answers, in the byte that eight such bits make: bit `7 - j` of it. -/
theorem streamData_singleton (kind : StreamKind) {bs : List Bool} {j : Nat} {b : Bool} (hlen : bs.length = 8) (hj : j < 8)
    (hb : bs[j]? = some b) : streamData kind [b] = 0#7 ++ BitVec.ofBool ((streamData kind bs).getLsbD (7 - j)) := by
  have bit : (assembleByte bs).getLsbD (7 - j) = b := by
    rw [getLsbD_assembleByte bs (by omega), List.getElem?_reverse (by omega), hlen, show 8 - 1 - (7 - j) = j by omega, hb,
      Option.getD_some]
  have single : assembleByte [b] = 0#7 ++ BitVec.ofBool b := by cases b <;> rfl
  cases kind with
  | ad | mac => simp [streamData]
  | enc | dec =>
    show assembleByte [b] = 0#7 ++ BitVec.ofBool ((assembleByte bs).getLsbD (7 - j))
    rw [bit, single]

/-- A stream command leaves a phase that accepts it again (10_state.md R30). -/
theorem streamAccepted_streamPhase (kind : StreamKind) : streamAccepted kind (streamPhase kind) = true := by
  cases kind <;> rfl

/-- The phases that accept encryption, decryption and tag-only absorption (10_state.md R30). -/
theorem streamAccepted_data {kind : StreamKind} (hk : kind ≠ .ad) {p : Phase}
    (hp : p = .initialized ∨ p = .absorbingAd ∨ p = .generating) : streamAccepted kind p = true := by
  cases kind with
  | ad => exact absurd rfl hk
  | enc | dec | mac => obtain rfl | rfl | rfl := hp <;> rfl

/-- The state after the first `j` of the bit commands on `bits`, one after another: the steps made so far, and the response to
the last of them. -/
def afterBits (C : Params) (kind : StreamKind) (bits : List Bool) (s : State) : Nat → State
  | 0 => s
  | j + 1 =>
    { s with
      engine := (streamSteps C.taps (gateSel kind C.authPolicy) (bits.take (j + 1)) s.engine).2
      phase := streamPhase kind
      rsp := some (responseWord .ok
        (streamData kind (streamSteps C.taps (gateSel kind C.authPolicy) bits s.engine).1[j]?.toList)) }

section AfterBits

variable (C : Params) (kind : StreamKind) (bits : List Bool) (s : State)

theorem afterBits_engine (j : Nat) : (afterBits C kind bits s j).engine =
    (streamSteps C.taps (gateSel kind C.authPolicy) (bits.take j) s.engine).2 := by
  cases j <;> rfl

theorem afterBits_accepts (h : streamAccepted kind s.phase = true) (j : Nat) :
    streamAccepted kind (afterBits C kind bits s j).phase = true := by
  cases j with
  | zero => exact h
  | succ j => exact streamAccepted_streamPhase kind

/-- The bit commands write the engine, the phase and the response only. -/
theorem afterBits_frame (j : Nat) (e : Engine) (p : Phase) (r : Option Word) :
    { afterBits C kind bits s j with engine := e, phase := p, rsp := r } = { s with engine := e, phase := p, rsp := r } := by
  cases j <;> rfl

/-- The bit command on the next bit leads to the next of these states. -/
theorem stream_afterBits (h : streamAccepted kind s.phase = true) {j : Nat} (hj : j < bits.length) :
    stream C kind [bits[j]] (afterBits C kind bits s j) = .next (afterBits C kind bits s (j + 1)) := by
  rw [stream_accepted C kind _ _ (afterBits_accepts C kind bits s h j), afterBits_frame, afterBits_engine, afterBits,
    streamSteps_take_succ _ _ _ _ hj, streamSteps_result _ _ _ _ hj]
  rfl

/-- The wide command leaves the state that the bit commands leave, but for the response. -/
theorem stream_eq_afterBits (h : streamAccepted kind s.phase = true) {n : Nat} (hn : bits.length = n + 1) :
    stream C kind bits s = .next
      (setRsp (some (responseWord .ok (streamData kind (streamSteps C.taps (gateSel kind C.authPolicy) bits s.engine).1)))
        (afterBits C kind bits s (n + 1))) := by
  rw [stream_accepted C kind bits s h, afterBits, ← hn, List.take_length]
  rfl

end AfterBits

/-- The byte command of a kind and the bit command of the same kind, in every phase that accepts them. -/
theorem byteIsEightBits_unitCommand (kind : StreamKind) (d : Byte) (s : State) (h : streamAccepted kind s.phase = true) :
    ByteIsEightBits (fun d => unitCommand kind (.byte d)) (fun b => unitCommand kind (.bit b)) d s := by
  have run (unit : DataUnit) (u : State) : exec (unitCommand kind unit) u = stream Config.params kind (unitBits unit) u :=
    (Proofs.execIsConfigured _ u).trans (execWith_unitCommand _ kind unit u)
  refine ⟨afterBits Config.params kind (byteBits d) s, streamData kind (streamSteps Config.params.taps
    (gateSel kind Config.params.authPolicy) (byteBits d) s.engine).1, rfl, ?bits, ?answers, ?byte⟩
  case bits =>
    intro j hj
    rw [run, ← getElem_byteBits d j hj]
    exact stream_afterBits Config.params kind (byteBits d) s h hj
  case answers =>
    intro j hj
    have result := streamSteps_result Config.params.taps (gateSel kind Config.params.authPolicy) (byteBits d) j hj s.engine
    rw [AnsweredOk, afterBits, result, responseWord_ok, Option.toList_some,
      streamData_singleton kind (streamSteps_length _ _ _ _) hj result]
  case byte =>
    rw [run, ← responseWord_ok]
    exact stream_eq_afterBits Config.params kind (byteBits d) s h rfl

end Sys2Proof.Machine

namespace Sys2Proof.Proofs

open Sys2Proof Sys2Proof.Machine

/-- Settles O18: the states of `afterBits`, for each of the four kinds. -/
theorem byteCommandIsEightBitCommands : Obligations.ByteCommandIsEightBitCommands := by
  intro d s
  refine ⟨fun hp => ?ad, fun hp => ?data⟩
  case ad => exact byteIsEightBits_unitCommand .ad d s (by obtain hp | hp := hp <;> rw [hp] <;> rfl)
  case data =>
    have each (kind : StreamKind) (hk : kind ≠ .ad) := byteIsEightBits_unitCommand kind d s (streamAccepted_data hk hp)
    exact ⟨each .enc nofun, each .dec nofun, each .mac nofun⟩

end Sys2Proof.Proofs

/-! ### The tag read out and the expected tag loaded, byte by byte (20_memory.md R56, R57; 43_finalize_and_tag.md R152 to R156) -/

namespace Sys2Proof.Machine

/-- A buffer is determined by its bytes. -/
theorem eq_of_bufRead_eq {n m : Nat} (size : n = 8 * m) {A B : BitVec n} (h : ∀ k, k < m → bufRead A k = bufRead B k) :
    A = B := by
  apply BitVec.eq_of_getLsbD_eq
  intro i hi
  have bit : (bufRead A (i / 8)).getLsbD (i % 8) = (bufRead B (i / 8)).getLsbD (i % 8) := by rw [h _ (by omega)]
  have inside : i % 8 < 8 := Nat.mod_lt i (by omega)
  simpa only [getLsbD_bufRead, Nat.div_add_mod, inside, decide_true, Bool.true_and] using bit

/-- The eight bytes that `RDTAG` returns, byte 0 first (20_memory.md R56). -/
def tagBytes (s : State) : List Byte := (List.range 8).map (bufRead s.engine.acc)

/-- The buffer holds these eight bytes exactly when it holds the tag (43 R155). -/
theorem eq_tag_iff {X : BitVec 64} {bytes : List Byte} {s : State} (hlen : bytes.length = 8)
    (hX : ∀ k (hk : k < bytes.length), bufRead X k = bytes[k]) : X = tag s ↔ bytes = tagBytes s := by
  have byte (k : Nat) (hk : k < 8) (hk' : k < (tagBytes s).length) : (tagBytes s)[k] = bufRead (tag s) k := by
    rw [bufRead_tag s k hk]
    simp [tagBytes]
  constructor
  · rintro rfl
    refine List.ext_getElem hlen fun k hk hk' => ?_
    rw [← hX k hk, byte k (hlen ▸ hk)]
  · rintro rfl
    exact eq_of_bufRead_eq (m := 8) rfl fun k hk => (hX k hk).trans (byte k hk hk)

/-- The buffer begins with these bytes, each of them marked as written (10_state.md R28). -/
def BytesLoaded {n m : Nat} (bytes : List Byte) (B : BitVec n) (M : BitVec m) : Prop :=
  ∀ k (hk : k < bytes.length), M.getLsbD k = true ∧ bufRead B k = bytes[k]

/-- Writing the next byte of the buffer. -/
theorem BytesLoaded.append {n m : Nat} {bytes : List Byte} {B : BitVec n} {M : BitVec m} (h : BytesLoaded bytes B M)
    (room : bytes.length < m ∧ 8 * bytes.length + 8 ≤ n) (b : Byte) :
    BytesLoaded (bytes ++ [b]) (bufWrite B bytes.length b) (markWritten M bytes.length) := by
  intro k hk
  rw [List.length_append, List.length_singleton] at hk
  rw [getLsbD_markWritten M _ k (by omega)]
  by_cases new : k = bytes.length
  · subst new
    exact ⟨by simp, by simp [bufRead_bufWrite_same B _ b room.2]⟩
  · obtain ⟨hvalid, hbyte⟩ := h k (by omega)
    rw [bufRead_bufWrite_other B k _ b new (by omega), hvalid, hbyte, List.getElem_append_left (by omega)]
    exact ⟨Bool.or_true _, rfl⟩

section Issue

variable (C : Params) {s : State}

/-- `LDXT` of each of the eight bytes, outside `uninit` (43 R154). -/
theorem issue_ldxt_accepted {k : BitVec 4} (byte : Byte) (hp : s.phase ≠ .uninit) (hk : k.toNat < 8) :
    issue C (.ldxt k byte) s = .done 0 (setRsp none (clearVerdict (writeXtagByte k.toNat byte s))) := by
  have f : execWith C (.ldxt k byte) s = respond 0 (clearVerdict (writeXtagByte k.toNat byte s)) := by
    show execLdxt k byte s = _
    rw [execLdxt, if_neg hp, if_neg (by omega)]
  rw [issue_ok f rfl]
  rfl

/-- `VFY` of a whole expected tag (43 R156). -/
theorem execVfy_loaded (hp : s.phase = .finalized) (hx : s.xtv = 0xFF) :
    execVfy s = if s.xtag = tag s then respond 0 (setVerdict true s)
      else raise .authenticationFailure (setVerdict false s) := by
  rw [execVfy, if_neg (not_not.mpr hp), if_neg (by simp [xtagReady, hx])]

theorem issue_vfy_match (hp : s.phase = .finalized) (hx : s.xtv = 0xFF) (same : s.xtag = tag s) :
    issue C .vfy s = .done 0 (setRsp none (setVerdict true s)) := by
  have f : execWith C .vfy s = respond 0 (setVerdict true s) := (execVfy_loaded hp hx).trans (if_pos same)
  rw [issue_ok f rfl]
  rfl

theorem issue_vfy_mismatch (hp : s.phase = .finalized) (hx : s.xtv = 0xFF) (differ : s.xtag ≠ tag s) :
    issue C .vfy s = .failed 2 (setRsp none (setVerdict false s)) := by
  have f : execWith C .vfy s = raise .authenticationFailure (setVerdict false s) :=
    (execVfy_loaded hp hx).trans (if_neg differ)
  exact issue_fault f rfl (by decide)

/-- Any tag bytes read out in `finalized` are `ACC`'s, and reading changes no register. -/
theorem issueAll_rdtag (ks : List (BitVec 4)) (hks : ∀ k ∈ ks, k.toNat < 8) (hp : s.phase = .finalized) :
    ∃ t, issueAll C (ks.map .rdtag) s = .done (ks.map fun k => bufRead s.engine.acc k.toNat) t
      ∧ t.phase = s.phase ∧ t.engine = s.engine := by
  induction ks generalizing s with
  | nil => exact ⟨s, rfl, rfl, rfl⟩
  | cons k ks ih =>
    obtain ⟨t, ht, hphase, hengine⟩ := ih (s := { s with rsp := none }) (fun j hj => hks j (List.mem_cons_of_mem k hj)) hp
    refine ⟨t, ?_, hphase, hengine⟩
    rw [List.map_cons, issueAll_cons C (issue_rdtag_finalized C k s hp (hks k List.mem_cons_self)), ht]
    rfl

/-- `RDTAG8` (30_encoding.md R79) in `finalized`. -/
theorem issueAll_rdtag8 (hp : s.phase = .finalized) :
    ∃ t, issueAll C rdtag8 s = .done (tagBytes s) t ∧ t.phase = s.phase ∧ t.engine = s.engine :=
  issueAll_rdtag C [0, 1, 2, 3, 4, 5, 6, 7] (by decide) hp

/-- `LDTAG` (30 R79) of at most eight bytes is answered OK, and loads them from byte 0 upwards. -/
theorem issueAll_ldtag (bytes : List Byte) (hlen : bytes.length ≤ 8) (hp : s.phase ≠ .uninit) :
    ∃ u, issueAll C (ldtag bytes) s = .done (List.replicate bytes.length 0) u
      ∧ u.phase = s.phase ∧ u.engine = s.engine ∧ BytesLoaded bytes u.xtag u.xtv := by
  induction bytes using List.reverseRecOn with
  | nil => exact ⟨s, rfl, rfl, rfl, nofun⟩
  | append_singleton bytes b ih =>
    rw [List.length_append, List.length_singleton] at hlen
    obtain ⟨u, hu, hphase, hengine, hbytes⟩ := ih (by omega)
    have index : (BitVec.ofNat 4 bytes.length).toNat = bytes.length := by
      rw [BitVec.toNat_ofNat, Nat.mod_eq_of_lt (by omega)]
    have last := issue_ldxt_accepted C b (k := BitVec.ofNat 4 bytes.length) (hphase.symm ▸ hp : u.phase ≠ .uninit) (by omega)
    rw [index] at last
    refine ⟨setRsp none (clearVerdict (writeXtagByte bytes.length b u)), ?_, hphase, hengine, hbytes.append (by omega) b⟩
    have split : ldtag (bytes ++ [b]) = ldtag bytes ++ [.ldxt (BitVec.ofNat 4 bytes.length) b] := List.mapIdx_concat
    rw [split, issueAll_append, hu, andThen, issueAll_cons C last, List.length_append, List.length_singleton,
      List.replicate_succ']
    rfl

end Issue

end Sys2Proof.Machine

namespace Sys2Proof.Proofs

open Sys2Proof Sys2Proof.Machine

/-- Settles O32: after `RDTAG8` and `LDTAG` the expected tag is whole, and it is the tag exactly when its bytes are those read
out. -/
theorem verificationIsByteEquality : Obligations.VerificationIsByteEquality := by
  intro C tg s hlen hp
  obtain ⟨t, hread, htphase, htengine⟩ := issueAll_rdtag8 C hp
  obtain ⟨u, hload, huphase, huengine, hbytes⟩ := issueAll_ldtag C tg (by omega) (s := t) (by rw [htphase, hp]; nofun)
  have finalized : u.phase = .finalized := by rw [huphase, htphase, hp]
  have whole : u.xtv = BitVec.allOnes 8 := by
    apply BitVec.eq_of_getLsbD_eq
    intro k hk
    rw [(hbytes k (by omega)).1, BitVec.getLsbD_allOnes, decide_eq_true hk]
  have same_tag : tagBytes u = tagBytes s := by rw [tagBytes, huengine, htengine, tagBytes]
  have equality : u.xtag = tag u ↔ tg = tagBytes s := by
    rw [← same_tag]
    exact eq_tag_iff hlen fun k hk => (hbytes k hk).2
  refine ⟨tagBytes s, t, hread, rfl, fun heq => ?_, fun hne => ?_⟩
  · refine ⟨setRsp none (setVerdict true u), ?_, rfl⟩
    rw [issueAll_append, hload, andThen, issueAll_cons C (issue_vfy_match C finalized whole (equality.mpr heq)), hlen]
    rfl
  · refine ⟨setRsp none (setVerdict false u), ?_, rfl⟩
    rw [issueAll_append, hload, andThen, issueAll, issue_vfy_mismatch C finalized whole (mt equality.mp hne)]
    rfl

end Sys2Proof.Proofs

/-! ## Encoding: the fields of a word, the decoder and the encoder, the opcode map, the responses (spec 30_encoding.md) -/

/-! ### The fields of a word (30_encoding.md R71) -/

namespace Sys2Proof

@[simp] theorem opField_pack (op a : BitVec 4) (d : Byte) : opField (pack op a d) = op :=
  (BitVec.extractLsb'_append_eq_of_le (by decide)).trans BitVec.extractLsb'_append_eq_left

@[simp] theorem aField_pack (op a : BitVec 4) (d : Byte) : aField (pack op a d) = a :=
  (BitVec.extractLsb'_append_eq_of_le (by decide)).trans BitVec.extractLsb'_append_eq_right

@[simp] theorem dField_pack (op a : BitVec 4) (d : Byte) : dField (pack op a d) = d :=
  BitVec.extractLsb'_append_eq_right

/-- A word is given by its fields. -/
theorem pack_eq_of_fields {w : Word} {op a : BitVec 4} {d : Byte} (hop : opField w = op) (ha : aField w = a)
    (hd : dField w = d) : pack op a d = w := by
  have high : opField w ++ aField w = w.extractLsb' 8 8 := BitVec.extractLsb'_append_extractLsb'_eq_extractLsb' rfl
  have whole : w.extractLsb' 8 8 ++ dField w = w := BitVec.extractLsb'_append_extractLsb'
  rw [← hop, ← ha, ← hd, pack, high, whole]

theorem toNat_opField (w : Word) : (opField w).toNat = (w >>> 12).toNat := by
  rw [opField, BitVec.extractLsb'_toNat, BitVec.toNat_ushiftRight, Nat.shiftRight_eq_div_pow]
  exact Nat.mod_eq_of_lt (by omega)

theorem toNat_aField (w : Word) : (aField w).toNat = (w >>> 8 &&& 0xF).toNat := by
  rw [aField, BitVec.extractLsb'_toNat, BitVec.toNat_and, BitVec.toNat_ushiftRight]
  exact (Nat.and_two_pow_sub_one_eq_mod _ 4).symm

theorem toNat_dField (w : Word) : (dField w).toNat = (w &&& 0xFF).toNat := by
  rw [dField, BitVec.extractLsb'_toNat, BitVec.toNat_and]
  exact (Nat.and_two_pow_sub_one_eq_mod _ 8).symm

/-! ### The data field of a bit-wide stream command (30_encoding.md R74) -/

/-- Bits 7 to 1 and bit 0 of a byte. -/
theorem extractLsb'_append_bit (d : Byte) : d.extractLsb' 1 7 ++ BitVec.ofBool (d.getLsbD 0) = d := by
  have bit : BitVec.ofBool (d.getLsbD 0) = d.extractLsb' 0 1 := by
    apply BitVec.eq_of_getLsbD_eq
    intro i hi
    simp [show i = 0 by omega]
  rw [bit]
  exact BitVec.extractLsb'_append_extractLsb'

theorem eq_bitData {d : Byte} (h : d.extractLsb' 1 7 = 0) : bitData (d.getLsbD 0) = d := by
  have whole := extractLsb'_append_bit d
  rwa [h] at whole

/-- The mask `FE` of the opcode map selects bits 7 to 1 (R75). -/
theorem eq_bitData_of_and {d : Byte} (h : d &&& 0xFE = 0) : bitData (d.getLsbD 0) = d := by
  apply eq_bitData
  have high : d.extractLsb' 1 7 &&& BitVec.allOnes 7 = 0 :=
    BitVec.extractLsb'_and.symm.trans (congrArg (BitVec.extractLsb' 1 7) h)
  rwa [BitVec.and_allOnes] at high

theorem toNat_extractLsb'_one (d : Byte) : (d.extractLsb' 1 7).toNat = d.toNat / 2 := by
  rw [BitVec.extractLsb'_toNat, Nat.shiftRight_eq_div_pow]
  exact Nat.mod_eq_of_lt (by omega)

/-! ### What the two shared forms of the decoder answer (30_encoding.md R74, R76) -/

theorem decodePlain_eq_command {a : BitVec 4} {d : Byte} {i j : Instr} :
    decodePlain a d j = .command i ↔ a = 0 ∧ d = 0 ∧ j = i := by
  unfold decodePlain
  split
  next h => simp [h]
  next h => simpa using fun ha hd => absurd ⟨ha, hd⟩ h

theorem decodePlain_eq_illegal {a : BitVec 4} {d : Byte} {j : Instr} {why : IllegalWord} :
    decodePlain a d j = .illegal why ↔ why = .operandsNotZero ∧ (a.toNat ≠ 0 ∨ d.toNat ≠ 0) := by
  unfold decodePlain
  split
  next h => simp [h]
  next h =>
    have nonzero : a.toNat ≠ 0 ∨ d.toNat ≠ 0 := by bv_omega
    simp only [Decoded.illegal.injEq, nonzero, and_true, eq_comm]

theorem decodeStream_eq_command {a : BitVec 4} {d : Byte} {bitForm : Bool → Instr} {byteForm : Byte → Instr}
    {i : Instr} :
    decodeStream a d bitForm byteForm = .command i ↔
      (a = 0 ∧ d.extractLsb' 1 7 = 0 ∧ bitForm (d.getLsbD 0) = i) ∨ (a = 1 ∧ byteForm d = i) := by
  unfold decodeStream
  split
  next bitWide => split <;> simp_all
  next notBit => split <;> simp_all

theorem decodeStream_eq_illegal {a : BitVec 4} {d : Byte} {bitForm : Bool → Instr} {byteForm : Byte → Instr}
    {why : IllegalWord} :
    decodeStream a d bitForm byteForm = .illegal why ↔
      (why = .bitOperandTooWide ∧ a.toNat = 0 ∧ d.toNat / 2 ≠ 0) ∨ (why = .reservedWidth ∧ 2 ≤ a.toNat) := by
  unfold decodeStream
  split
  next bitWide =>
    have high := toNat_extractLsb'_one d
    split
    next zero => simp [bitWide, ← high, zero]
    next nonzero =>
      have tooWide : d.toNat / 2 ≠ 0 := by bv_omega
      simp [bitWide, tooWide, eq_comm]
  next notBit =>
    split
    next byteWide => simp [byteWide]
    next notByte =>
      have reserved : a.toNat ≠ 0 ∧ 2 ≤ a.toNat := by bv_omega
      simp [reserved, eq_comm]

/-- How a word with these fields is read, by the kind of its opcode (R75, R76); a command that it can give is the one with
this word. -/
inductive ReadAs (op a : BitVec 4) (d : Byte) : Decoded → Prop
  | plain (i : Instr) (opcode : op = 0 ∨ op = 1 ∨ op = 4 ∨ op = 9 ∨ op = 0xC ∨ op = 0xD)
      (word : encode i = pack op 0 0) :
      ReadAs op a d (decodePlain a d i)
  | indexed (i : Instr) (opcode : op = 2 ∨ op = 3 ∨ op = 0xB) (word : encode i = pack op a d) :
      ReadAs op a d (.command i)
  | stream (bitForm : Bool → Instr) (byteForm : Byte → Instr) (opcode : op = 5 ∨ op = 6 ∨ op = 7 ∨ op = 8)
      (bitWord : ∀ b, encode (bitForm b) = pack op 0 (bitData b)) (byteWord : encode (byteForm d) = pack op 1 d) :
      ReadAs op a d (decodeStream a d bitForm byteForm)
  | tagRead (opcode : op = 0xA) : ReadAs op a d (if d = 0 then .command (.rdtag a) else .illegal .tagReadDataNotZero)
  | reserved (opcode : op = 0xE ∨ op = 0xF) : ReadAs op a d (.illegal .reservedOpcode)

/-- The decoder, opcode by opcode. -/
theorem decode_readAs (w : Word) : ReadAs (opField w) (aField w) (dField w) (decode w) := by
  unfold decode
  generalize opField w = op
  obtain ⟨n, hn, rfl⟩ : ∃ n, n < 16 ∧ BitVec.ofNat 4 n = op := ⟨op.toNat, op.isLt, by simp⟩
  interval_cases n
  · exact .plain .nop (by decide) rfl
  · exact .plain .rst (by decide) rfl
  · exact .indexed (.ldk _ _) (by decide) rfl
  · exact .indexed (.ldiv _ _) (by decide) rfl
  · exact .plain .init (by decide) rfl
  · exact .stream .adb .adby (by decide) (fun _ => rfl) rfl
  · exact .stream .encb .encby (by decide) (fun _ => rfl) rfl
  · exact .stream .decb .decby (by decide) (fun _ => rfl) rfl
  · exact .stream .macb .macby (by decide) (fun _ => rfl) rfl
  · exact .plain .fin (by decide) rfl
  · exact .tagRead rfl
  · exact .indexed (.ldxt _ _) (by decide) rfl
  · exact .plain .vfy (by decide) rfl
  · exact .plain .rdst (by decide) rfl
  · exact .reserved (by decide)
  · exact .reserved (by decide)

/-- A word is read as a command only if it is that command's word. -/
theorem ReadAs.word_eq {op a : BitVec 4} {d : Byte} {r : Decoded} {i : Instr} (h : ReadAs op a d r) (hr : r = .command i) :
    encode i = pack op a d := by
  cases h with
  | plain j _ word =>
    obtain ⟨rfl, rfl, rfl⟩ := decodePlain_eq_command.mp hr
    exact word
  | indexed j _ word =>
    cases hr
    exact word
  | stream bitForm byteForm _ bitWord byteWord =>
    obtain ⟨rfl, hd, rfl⟩ | ⟨rfl, rfl⟩ := decodeStream_eq_command.mp hr
    · rw [bitWord, eq_bitData hd]
    · exact byteWord
  | tagRead opcode =>
    split at hr
    next hd =>
      cases hr
      rw [opcode, hd]
      rfl
    next => cases hr
  | reserved => cases hr

end Sys2Proof

/-! ### Each command's word (30_encoding.md R75) -/

namespace Sys2Proof

theorem decodeStream_bitData (b : Bool) (bitForm : Bool → Instr) (byteForm : Byte → Instr) :
    decodeStream 0#4 (bitData b) bitForm byteForm = .command (bitForm b) := by
  cases b <;> rfl

/-- The command of the same row with the operands that the fields `a` and `d` give. -/
def Instr.withFields (a : BitVec 4) (d : Byte) : Instr → Instr
  | .ldk _ _ => .ldk a d
  | .ldiv _ _ => .ldiv a d
  | .adb _ => .adb (d.getLsbD 0)
  | .adby _ => .adby d
  | .encb _ => .encb (d.getLsbD 0)
  | .encby _ => .encby d
  | .decb _ => .decb (d.getLsbD 0)
  | .decby _ => .decby d
  | .macb _ => .macb (d.getLsbD 0)
  | .macby _ => .macby d
  | .rdtag _ => .rdtag a
  | .ldxt _ _ => .ldxt a d
  | i => i

end Sys2Proof

namespace Sys2Proof.Machine

theorem rowOf_withFields (i : Instr) (a : BitVec 4) (d : Byte) : rowOf (i.withFields a d) = rowOf i := by
  cases i <;> rfl

theorem rowOf_mem_opcodeRows (i : Instr) : rowOf i ∈ opcodeRows := by
  cases i <;> simp [opcodeRows, rowOf]

/-- Every row of the map is that of some command. -/
theorem exists_rowOf_eq {r : OpcodeRow} (h : r ∈ opcodeRows) : ∃ i, rowOf i = r := by
  revert r
  simp [opcodeRows]

/-- The word of a command selects the command's row: the 18 lemmas of `SelectsItsRow`. -/
theorem selectedBy_encode (i : Instr) : (rowOf i).selectedBy (encode i) := by
  cases i with
  | nop => exact Laws.SelectsItsRow.nop
  | rst => exact Laws.SelectsItsRow.rst
  | ldk k byte => exact Laws.SelectsItsRow.ldk k byte
  | ldiv k byte => exact Laws.SelectsItsRow.ldiv k byte
  | init => exact Laws.SelectsItsRow.init
  | adb b => exact Laws.SelectsItsRow.adb b
  | adby byte => exact Laws.SelectsItsRow.adby byte
  | encb b => exact Laws.SelectsItsRow.encb b
  | encby byte => exact Laws.SelectsItsRow.encby byte
  | decb b => exact Laws.SelectsItsRow.decb b
  | decby byte => exact Laws.SelectsItsRow.decby byte
  | macb b => exact Laws.SelectsItsRow.macb b
  | macby byte => exact Laws.SelectsItsRow.macby byte
  | fin => exact Laws.SelectsItsRow.fin
  | rdtag k => exact Laws.SelectsItsRow.rdtag k
  | ldxt k byte => exact Laws.SelectsItsRow.ldxt k byte
  | vfy => exact Laws.SelectsItsRow.vfy
  | rdst => exact Laws.SelectsItsRow.rdst

/-- A row is selected field by field. -/
theorem OpcodeRow.selectedBy.fields {r : OpcodeRow} {w : Word} (h : r.selectedBy w) :
    opField w &&& opField r.mask = opField r.value ∧ aField w &&& aField r.mask = aField r.value
      ∧ dField w &&& dField r.mask = dField r.value := by
  rw [← show w &&& r.mask = r.value from h]
  exact ⟨BitVec.extractLsb'_and.symm, BitVec.extractLsb'_and.symm, BitVec.extractLsb'_and.symm⟩

/-- The mask of a field that the row fixes whole. -/
theorem eq_of_and_allOnes {n : Nat} {x v : BitVec n} (h : x &&& BitVec.allOnes n = v) : x = v :=
  BitVec.and_allOnes.symm.trans h

/-- A word that selects the row of a command is the word of a command of that row. -/
theorem encode_withFields {i : Instr} {w : Word} (h : (rowOf i).selectedBy w) :
    encode (i.withFields (aField w) (dField w)) = w := by
  obtain ⟨hop, ha, hd⟩ := h.fields
  cases i with
  | nop | rst | init | fin | vfy | rdst =>
    exact pack_eq_of_fields (eq_of_and_allOnes hop) (eq_of_and_allOnes ha) (eq_of_and_allOnes hd)
  | ldk | ldiv | ldxt =>
    dsimp only [rowOf] at hop
    exact pack_eq_of_fields (eq_of_and_allOnes hop) rfl rfl
  | adb | encb | decb | macb =>
    dsimp only [rowOf] at hop ha hd
    exact pack_eq_of_fields (eq_of_and_allOnes hop) (eq_of_and_allOnes ha) (eq_bitData_of_and hd).symm
  | adby | encby | decby | macby =>
    dsimp only [rowOf] at hop ha
    exact pack_eq_of_fields (eq_of_and_allOnes hop) (eq_of_and_allOnes ha) rfl
  | rdtag =>
    dsimp only [rowOf] at hop hd
    exact pack_eq_of_fields (eq_of_and_allOnes hop) rfl (eq_of_and_allOnes hd)

end Sys2Proof.Machine

/-! ### Responses (30_encoding.md R70, R72, R73) -/

namespace Sys2Proof.Machine

/-- However a command ends, its response is one the core may give. -/
theorem Ends.responseLegal {C : Params} {s t : State} {i : Instr} (h : Ends C s i t) {r : Word} (hr : t.rsp = some r) :
    ResponseLegal r := by
  cases h with
  | rejected | badParameter | mismatched =>
    cases hr
    exact responseLegal_responseWord (by decide) fun _ => rfl
  | accepted =>
    cases hr
    exact responseLegal_responseWord (by decide) fun h => absurd rfl h

/-- Only a word other than the one held back counts as changed (93_implementation_defined.md U14; log entry 7). -/
theorem changesStalledCommand_eq_false_of_same {p : PortInput} {s : State}
    (h : ∀ w, s.stalled = some w → p.cmdValid = true → p.cmd = w) : changesStalledCommand p s = false := by
  unfold changesStalledCommand
  split
  next w hw =>
    cases hv : p.cmdValid with
    | false => rfl
    | true => simp [h w hw hv]
  next => rfl

/-- All that a sample can do while the response `r` is offered. -/
theorem responsePhase_eq (p : PortInput) (r : Word) (s : State) (hr : s.rsp = some r) :
    responsePhase p r s =
      { s with
        stalled := if p.cmdValid then some p.cmd else none
        rsp := if p.rspReady then none else some r
        taken := if p.rspReady then s.taken ++ [r] else s.taken } := by
  unfold responsePhase
  split
  next => rfl
  next => rw [← hr]; rfl

end Sys2Proof.Machine

/-! ### The statements -/

namespace Sys2Proof.Proofs

open Sys2Proof Sys2Proof.Machine

/-- Settles O1: the decoder reads back the opcode and the operands that the encoder packed. -/
theorem decodeOfEncode : Obligations.DecodeOfEncode := by
  intro i
  cases i with
  | nop | rst | init | fin | vfy | rdst => rfl
  | ldk | ldiv | ldxt | rdtag | adby | encby | decby | macby => simp [encode, decode, decodeStream]
  | adb | encb | decb | macb => simp [encode, decode, decodeStream_bitData]

/-- Settles O2, by the ways a word is read. -/
theorem encodeOfDecode : Obligations.EncodeOfDecode := fun w _ h =>
  ((decode_readAs w).word_eq h).trans (pack_eq_of_fields rfl rfl rfl)

/-- Settles O3: a word that selects a row is the word of a command of that row, which it decodes to; so it selects no other
row. -/
theorem decoderFollowsOpcodeMap : Obligations.DecoderFollowsOpcodeMap := by
  have decodes (w : Word) (r : OpcodeRow) (hr : r ∈ opcodeRows) (h : r.selectedBy w) :
      ∃ i, decode w = .command i ∧ rowOf i = r := by
    obtain ⟨i, rfl⟩ := exists_rowOf_eq hr
    refine ⟨i.withFields (aField w) (dField w), ?_, rowOf_withFields i _ _⟩
    rw [← decodeOfEncode, encode_withFields h]
  refine ⟨fun w i h => ⟨rowOf_mem_opcodeRows i, ?_⟩, decodes, rfl, fun w r q hr hq hwr hwq => ?_⟩
  · rw [← encodeOfDecode w i h]
    exact selectedBy_encode i
  · obtain ⟨i, hi, rfl⟩ := decodes w r hr hwr
    obtain ⟨j, hj, rfl⟩ := decodes w q hq hwq
    cases hi.symm.trans hj
    rfl

/-- Settles O4, by the ways a word is read. -/
theorem illegalWordClasses : Obligations.IllegalWordClasses := by
  intro w
  dsimp only
  rw [← toNat_opField, ← toNat_aField, ← toNat_dField]
  have read := decode_readAs w
  generalize decode w = r, opField w = op, aField w = a, dField w = d at read ⊢
  cases read with
  | plain i opcode => obtain rfl | rfl | rfl | rfl | rfl | rfl := opcode <;> simp [decodePlain_eq_illegal]
  | indexed i opcode => obtain rfl | rfl | rfl := opcode <;> simp
  | stream bitForm byteForm opcode => obtain rfl | rfl | rfl | rfl := opcode <;> simp [decodeStream_eq_illegal]
  | tagRead opcode =>
    subst opcode
    split
    next hd => simp [hd]
    next hd =>
      have nonzero : d.toNat ≠ 0 := by bv_omega
      simp [nonzero]
  | reserved opcode => obtain rfl | rfl := opcode <;> simp

/-- Settles O36: a command answers, and each way it can end puts a legal response on the port. -/
theorem everyCommandIsAnswered : Obligations.EveryCommandIsAnswered := by
  intro i s
  obtain ⟨t, r, ht, hr, _⟩ := exec_answersAtAnyPort i s
  exact ⟨t, r, ht, hr, (exec_ends ht).responseLegal hr⟩

/-- Settles O43: the sample finds the response outstanding. -/
theorem responseBlocksCommands : Obligations.ResponseBlocksCommands := by
  intro s p ps r hin hrst hrsp hheld
  rw [step_responds hin hrst hrsp (changesStalledCommand_eq_false_of_same hheld),
    responsePhase_eq p r (setInputs ps s) hrsp]
  rfl

/-- Settles O5: the decoder run on each word. -/
theorem decodeVectors : Obligations.DecodeVectors := by
  unfold Obligations.DecodeVectors
  decide

end Sys2Proof.Proofs

/-! ## Register pair and combiner: the parities the datapath computes, their corner cases and the register clock (spec
40_register_pair_and_combiner.md) -/

/-! ### Parities of the terms that are 1 (R91, R92, R94, R95) -/

namespace Sys2Proof.Machine

/-- `XORSUM` over the terms of a collection is the parity of the number of terms that are 1. -/
theorem xorSum_map_eq_true_iff {α : Type} (f : α → Bool) (xs : List α) :
    xorSum (xs.map f) = true ↔ xs.countP f % 2 = 1 := by
  rw [xorSum_eq_true_iff, List.count_eq_countP, List.countP_map]
  simp [Function.comp_def]

theorem xorSum_map_eq_false {α : Type} {f : α → Bool} {xs : List α} (h : ∀ x ∈ xs, f x = false) :
    xorSum (xs.map f) = false := by
  have zero : xs.countP f = 0 := List.countP_eq_zero.mpr fun x hx => by simp [h x hx]
  rw [← Bool.not_eq_true, xorSum_map_eq_true_iff, zero]
  decide

theorem toNat_eq_true_iff_mod_two (b : Bool) : b = true ↔ b.toNat % 2 = 1 := by
  cases b <;> decide

/-- The XOR of two parities is the parity of the sum (00_scope.md R12, 40 R98). -/
theorem xor_eq_true_iff_mod_two {a b : Bool} {m n : Nat} (ha : a = true ↔ m % 2 = 1) (hb : b = true ↔ n % 2 = 1) :
    (a ^^ b) = true ↔ (m + n) % 2 = 1 := by
  rw [Bool.xor_iff_ne, ne_eq, Bool.eq_iff_iff, ha, hb]
  omega

theorem fl_eq_true_iff (T : Taps) (l : Reg) :
    fl T l = true ↔ (T.lfsrTaps.countP fun (t : Fin 128) => l.getLsbD t) % 2 = 1 :=
  xorSum_map_eq_true_iff _ _

theorem fn_eq_true_iff (T : Taps) (l n : Reg) :
    fn T l n = true ↔
      ((l.getLsbD 0).toNat + (T.nfsrLinTaps.countP fun (t : Fin 128) => n.getLsbD t)
        + T.nfsrAndPairs.countP fun (p : Fin 128 × Fin 128) => n.getLsbD p.1 && n.getLsbD p.2) % 2 = 1 :=
  xor_eq_true_iff_mod_two
    (xor_eq_true_iff_mod_two (toNat_eq_true_iff_mod_two _) (xorSum_map_eq_true_iff _ _)) (xorSum_map_eq_true_iff _ _)

/-- The form of `H` and `PRE` as a sum of the monomials that read 1. -/
theorem evalMonomials_eq (ms : List Monomial) (l n : Reg) :
    evalMonomials ms l n = xorSum (ms.map (monomialReads l n)) :=
  congrArg xorSum (List.map_congr_left fun m _ => andAll_tapBit l n m)

theorem evalMonomials_eq_true_iff (ms : List Monomial) (l n : Reg) :
    evalMonomials ms l n = true ↔ ms.countP (monomialReads l n) % 2 = 1 := by
  rw [evalMonomials_eq, xorSum_map_eq_true_iff]

end Sys2Proof.Machine

/-! ### The corner cases of a well-formed tap record (00_scope.md R6, R7) -/

namespace Sys2Proof

/-- R7 (a), read off the check. -/
theorem Taps.length_lfsrTaps_of_wellFormed {T : Taps} (h : T.wellFormed = true) : T.lfsrTaps.length = 7 := by
  simp only [Taps.wellFormed, Taps.sevenLfsrTaps, Bool.and_eq_true, beq_iff_eq] at h
  obtain ⟨⟨⟨⟨⟨seven, _⟩, _⟩, _⟩, _⟩, _⟩ := h
  exact seven

/-- R6 for the monomials of `h`, read off the check: none is empty. -/
theorem Taps.hMonomial_ne_nil_of_wellFormed {T : Taps} (h : T.wellFormed = true) {m : Monomial} (hm : m ∈ T.hMonomials) :
    m ≠ [] := by
  simp only [Taps.wellFormed, Taps.hTermsPresent, Bool.and_eq_true, List.all_eq_true] at h
  obtain ⟨⟨_, ⟨⟨⟨wf, _⟩, _⟩, _⟩, _⟩, _⟩ := h
  rintro rfl
  exact absurd (wf [] hm) (by decide)

end Sys2Proof

namespace Sys2Proof.Machine

/-- A monomial with a tap reads 0 when both registers are 0. -/
theorem monomialReads_zero {m : Monomial} (h : m ≠ []) : monomialReads 0 0 m = false := by
  cases m with
  | nil => exact absurd rfl h
  | cons t m => obtain ⟨_ | _, i⟩ := t <;> simp [monomialReads]

theorem fl_zero (T : Taps) : fl T 0 = false :=
  xorSum_map_eq_false fun _ _ => BitVec.getLsbD_zero

/-- With all ones `FL` is the parity of the number of taps. -/
theorem fl_allOnes (T : Taps) : fl T (BitVec.allOnes 128) = true ↔ T.lfsrTaps.length % 2 = 1 := by
  have all : (T.lfsrTaps.countP fun (t : Fin 128) => (BitVec.allOnes 128).getLsbD t) = T.lfsrTaps.length :=
    List.countP_eq_length.mpr fun t _ => BitVec.getLsbD_allOnes.trans (decide_eq_true t.isLt)
  rw [fl_eq_true_iff, all]

theorem fn_zero (T : Taps) (l : Reg) : fn T l 0 = l.getLsbD 0 := by
  have linear : xorSum (T.nfsrLinTaps.map fun (t : Fin 128) => (0 : Reg).getLsbD t) = false :=
    xorSum_map_eq_false fun _ _ => BitVec.getLsbD_zero
  have pairs : xorSum (T.nfsrAndPairs.map fun p => (0 : Reg).getLsbD p.1 && (0 : Reg).getLsbD p.2) = false :=
    xorSum_map_eq_false fun _ _ => by simp
  rw [fn, linear, pairs, Bool.xor_false, Bool.xor_false]

/-- `KS` of the zero pair is 0 when no monomial of `h` is empty. -/
theorem ks_zero {T : Taps} (h : ∀ m ∈ T.hMonomials, m ≠ []) : ks T 0 0 = false := by
  have zero : hBit T 0 0 = false := by
    rw [hBit, evalMonomials_eq]
    exact xorSum_map_eq_false fun m hm => monomialReads_zero (h m hm)
  rw [ks, zero, Bool.false_xor]
  exact BitVec.getLsbD_zero

/-! ### The register clock (R93) -/

/-- The shift moves every bit but the newest down by one. -/
theorem getLsbD_shiftIn_of_lt (b : Bool) (r : Reg) {i : Nat} (hi : i < 127) :
    (shiftIn b r).getLsbD i = r.getLsbD (i + 1) := by
  rw [getLsbD_shiftIn b r i (by omega), if_neg (by omega)]

/-- The bit shifted in stands at bit 127. -/
theorem getLsbD_shiftIn_top (b : Bool) (r : Reg) : (shiftIn b r).getLsbD 127 = b :=
  getLsbD_shiftIn b r 127 (by decide)

end Sys2Proof.Machine

/-! ### The statements -/

namespace Sys2Proof.Proofs

open Sys2Proof Sys2Proof.Machine

/-- Settles O51: each register is shifted by `shiftIn`, whose bits are known; `SR`, `ACC` and the returned bit are those of
`clock` and `clockBit` by definition. -/
theorem clockShiftsBothRegisters : Obligations.ClockShiftsBothRegisters := fun _ _ =>
  ⟨fun _ hi => ⟨getLsbD_shiftIn_of_lt _ _ hi, getLsbD_shiftIn_of_lt _ _ hi⟩, getLsbD_shiftIn_top _ _,
    getLsbD_shiftIn_top _ _, clock_sr _ _, clock_acc _ _, rfl⟩

/-- Settles O52: of the check, `FL` of all ones needs the seven taps and `KS` that no monomial is empty. -/
theorem feedbackCornerCases : Obligations.FeedbackCornerCases := fun T h =>
  have odd : T.lfsrTaps.length % 2 = 1 := by rw [Taps.length_lfsrTaps_of_wellFormed h]
  ⟨fl_zero T, (fl_allOnes T).mpr odd, fn_zero T, ks_zero fun _ hm => Taps.hMonomial_ne_nil_of_wellFormed h hm⟩

/-- Settles O58: each function is an `XORSUM` of terms, or an XOR of such sums and single bits. -/
theorem datapathFunctionsAreParities : Obligations.DatapathFunctionsAreParities := fun T l n =>
  ⟨fl_eq_true_iff T l, fn_eq_true_iff T l n, evalMonomials_eq_true_iff _ l n,
    xor_eq_true_iff_mod_two (evalMonomials_eq_true_iff _ l n) (toNat_eq_true_iff_mod_two _),
    evalMonomials_eq_true_iff _ l n⟩

end Sys2Proof.Proofs

/-! ## Setup and INIT: what `NOP`, `RST`, `LDK`, `LDIV` and `INIT` write and answer (spec 41_setup_and_init.md) -/

/-! ### The staging buffers and their loads (R112, R113) -/

namespace Sys2Proof.Machine

/-- A byte write replaces bit `i` exactly where `i` lies in byte `k`. -/
theorem getLsbD_bufWrite_eq_ite_div {n : Nat} (B : BitVec n) (k : Nat) (v : Byte) {i : Nat} (hi : i < n) :
    (bufWrite B k v).getLsbD i = if i / 8 = k then v.getLsbD (i % 8) else B.getLsbD i := by
  rw [getLsbD_bufWrite B k v i hi]
  by_cases inByte : i / 8 = k
  · rw [if_pos (by omega), if_pos inByte, show i - 8 * k = i % 8 by omega]
  · rw [if_neg (by omega), if_neg inByte]

section Loads

variable {k : BitVec 4} (byte : Byte) {s : State}

theorem execLdk_uninit (hp : s.phase = .uninit) : execLdk k byte s = respond 0 (writeKeyByte k.toNat byte s) :=
  if_neg (not_not.mpr hp)

theorem execLdk_rejected (hp : s.phase ≠ .uninit) : execLdk k byte s = raise .protocolError s :=
  if_pos hp

theorem execLdiv_uninit (hp : s.phase = .uninit) (hk : k.toNat < 12) :
    execLdiv k byte s = respond 0 (writeIvByte k.toNat byte s) := by
  rw [execLdiv, if_neg (not_not.mpr hp), if_neg (Nat.not_le.mpr hk)]

/-- An index past the 12 IV bytes (60_exceptions.md R191). -/
theorem execLdiv_badIndex (hp : s.phase = .uninit) (hk : 12 ≤ k.toNat) :
    execLdiv k byte s = raise .invalidParameter s := by
  rw [execLdiv, if_neg (not_not.mpr hp), if_pos hk]

theorem execLdiv_rejected (hp : s.phase ≠ .uninit) : execLdiv k byte s = raise .protocolError s :=
  if_pos hp

end Loads

end Sys2Proof.Machine

/-! ### The registers `INIT` loads and the engine it leaves (R114, R115) -/

namespace Sys2Proof.Machine

/-- `LFSR` is loaded with the 96 IV bits below 32 ones (20_memory.md R53). -/
theorem getLsbD_loadedEngine_lfsr (s : State) {i : Nat} (hi : i < 128) :
    (loadedEngine s).lfsr.getLsbD i = if i < 96 then s.iv.getLsbD i else true := by
  have append : (loadedEngine s).lfsr.getLsbD i =
      if i < 96 then s.iv.getLsbD i else (BitVec.allOnes 32).getLsbD (i - 96) := BitVec.getLsbD_append
  rw [append, BitVec.getLsbD_allOnes, show decide (i - 96 < 32) = true from decide_eq_true (by omega)]

/-- Each blind clock of the loop, from the engine the earlier ones leave. -/
theorem blindClocks_rel (T : Taps) (i : Nat) (e : Engine) : BlindRel T i (blindClocks T i e) (blindClocks T (i + 1) e) := by
  rw [blindClocks_succ]
  exact blind_rel T i _

theorem execWith_init_engine (C : Params) {s t : State} (hk : s.kv = 0xFFFF) (hv : s.ivv = 0xFFF)
    (h : execWith C .init s = .next t) : t.engine = blindClocks C.taps 320 (loadedEngine s) := by
  cases (initWith_loaded C s hk hv).symm.trans h
  rfl

end Sys2Proof.Machine

/-! ### The statements -/

namespace Sys2Proof.Proofs

open Sys2Proof Sys2Proof.Machine

/-- Settles O8: the key buffer and its valid mask are written bit by bit as the shared buffer operations write. -/
theorem ldkWritesKeyByte : Obligations.LdkWritesKeyByte := by
  refine fun k byte s => ⟨rfl, fun hp => ?uninit, fun hp => execLdk_rejected byte hp⟩
  case uninit =>
    exact ⟨_, execLdk_uninit byte hp, rfl, fun _ hi => getLsbD_bufWrite_eq_ite_div s.key k.toNat byte hi,
      fun j hj => getLsbD_markWritten s.kv k.toNat j hj⟩

/-- Settles O9: as for `LDK`, with the index checked after the phase. -/
theorem ldivWritesIvByte : Obligations.LdivWritesIvByte := by
  refine fun k byte s => ⟨rfl, fun hp hk => ?uninit, fun hp hk => execLdiv_badIndex byte hp hk,
    fun hp => execLdiv_rejected byte hp⟩
  case uninit =>
    exact ⟨_, execLdiv_uninit byte hp hk, rfl, fun _ hi => getLsbD_bufWrite_eq_ite_div s.iv k.toNat byte hi,
      fun j hj => getLsbD_markWritten s.ivv k.toNat j hj⟩

/-- Settles O10: the engines are those after each number of blind clocks from the loaded one. -/
theorem initRunsBlindClocks : Obligations.InitRunsBlindClocks := by
  refine ⟨rfl, fun s => ⟨fun hk hv => ?loaded, fun h => initWith_unloaded Config.params s h⟩⟩
  case loaded =>
    refine ⟨fun n => blindClocks Config.params.taps n (loadedEngine s), ?start⟩
    simp only [blindClocks_zero]
    exact ⟨fun _ hi => getLsbD_loadedEngine_lfsr s hi, rfl, rfl, rfl, fun i _ => blindClocks_rel Config.params.taps i _,
      initWith_loaded Config.params s hk hv⟩

/-- Settles O11: after the last blind clock `SR` holds the pre-output bits of the last 128. -/
theorem initFillsSr : Obligations.InitFillsSr := by
  intro C s t hk hv h k hlt
  rw [execWith_init_engine C hk hv h]
  have bit := blindClocks_sr_bit C.taps (loadedEngine s) (Nat.le_refl 128) hlt
  rwa [Nat.sub_self, Nat.zero_add] at bit

/-- Settles O12: the two loaded engines differ in `SR` only, and the blind clocks forget it. -/
theorem initForgetsThePast : Obligations.InitForgetsThePast := by
  intro C s u t v hkey hiv hsk hsv huk huv hs hu
  rw [execWith_init_engine C hsk hsv hs, execWith_init_engine C huk huv hu]
  exact blindClocks_loadedEngine C.taps hkey hiv

/-- Settles O6: `NOP` is `respond(0)`. -/
theorem nopOnlyAnswers : Obligations.NopOnlyAnswers := ⟨rfl, respond_eq 0⟩

/-- Settles O7: the reset of the registers, answered OK. -/
theorem rstLeavesResetState : Obligations.RstLeavesResetState := ⟨rfl, fun s => respond_eq 0 (resetRegisters s)⟩

end Sys2Proof.Proofs

/-! ## Stream commands: one step, one byte, whole sessions (spec 42_stream_commands.md) -/

/-! ### What the loop answers and where it leaves the engine (R131, R140) -/

namespace Sys2Proof.Machine

/-- The keystream reads the register pair only (R140). -/
theorem keystream_congr (T : Taps) {e f : Engine} (hl : e.lfsr = f.lfsr) (hn : e.nfsr = f.nfsr) (n : Nat) :
    keystream T n e = keystream T n f := by
  induction n generalizing e f with
  | zero => rfl
  | succ n ih =>
    have next : keystream T n (clock T e) = keystream T n (clock T f) :=
      ih (by simp only [clock_lfsr, hl]) (by simp only [clock_nfsr, hl, hn])
    rw [keystream, keystream, clockBit_congr T hl hn, next]

/-- The result bits are the operand bits XOR the keystream, whatever the gate selector. -/
theorem streamSteps_fst (T : Taps) (g : GateSel) (xs : List Bool) (e : Engine) :
    (streamSteps T g xs e).1 = List.zipWith (· ^^ ·) xs (keystream T xs.length e) := by
  induction xs generalizing e with
  | nil => rfl
  | cons x xs ih =>
    rw [streamSteps, ih, keystream_congr T (engineStep_lfsr T g x e) (engineStep_nfsr T g x e)]
    rfl

/-- The two engines stand at the same place of the keystream; their accumulators may differ. -/
structure SamePosition (e f : Engine) : Prop where
  lfsr : e.lfsr = f.lfsr
  nfsr : e.nfsr = f.nfsr
  sr : e.sr = f.sr

theorem SamePosition.refl (e : Engine) : SamePosition e e := ⟨rfl, rfl, rfl⟩

theorem SamePosition.symm {e f : Engine} (h : SamePosition e f) : SamePosition f e := ⟨h.lfsr.symm, h.nfsr.symm, h.sr.symm⟩

theorem SamePosition.trans {e f g : Engine} (h : SamePosition e f) (k : SamePosition f g) : SamePosition e g :=
  ⟨h.lfsr.trans k.lfsr, h.nfsr.trans k.nfsr, h.sr.trans k.sr⟩

/-- A step moves the position alike under every gate selector and operand bit (40_register_pair_and_combiner.md R96, R97). -/
theorem SamePosition.engineStep {e f : Engine} (h : SamePosition e f) (T : Taps) (g k : GateSel) (x y : Bool) :
    SamePosition (engineStep T g x e) (engineStep T k y f) := by
  obtain ⟨hl, hn, hs⟩ := h
  constructor <;> simp only [engineStep_lfsr, engineStep_nfsr, engineStep_sr, clock_lfsr, clock_nfsr, hl, hn, hs]

theorem SamePosition.finalSteps {e f : Engine} (h : SamePosition e f) (T : Taps) (n : Nat) :
    SamePosition (finalSteps T n e) (finalSteps T n f) := by
  induction n generalizing e f with
  | zero => rwa [finalSteps_zero, finalSteps_zero]
  | succ n ih =>
    rw [finalSteps_succ, finalSteps_succ]
    exact ih (h.engineStep T .ks .ks false false)

theorem finalSteps_add (T : Taps) (m n : Nat) (e : Engine) : finalSteps T (m + n) e = finalSteps T n (finalSteps T m e) := by
  induction m generalizing e with
  | zero => rw [Nat.zero_add, finalSteps_zero]
  | succ m ih => rw [Nat.add_right_comm, finalSteps_succ, finalSteps_succ, ih]

/-- Data steps move the position as that many finalization steps do. -/
theorem streamSteps_samePosition (T : Taps) (g : GateSel) (xs : List Bool) (e : Engine) :
    SamePosition (streamSteps T g xs e).2 (finalSteps T xs.length e) := by
  induction xs generalizing e with
  | nil =>
    rw [List.length_nil, finalSteps_zero]
    exact .refl e
  | cons x xs ih =>
    rw [List.length_cons, finalSteps_succ]
    exact (ih (engineStep T g x e)).trans (((SamePosition.refl e).engineStep T g .ks x false).finalSteps T xs.length)

/-- As many data steps on either side keep two engines at the same position. -/
theorem SamePosition.streamSteps {e f : Engine} (h : SamePosition e f) (T : Taps) (g k : GateSel) {xs ys : List Bool}
    (hlen : xs.length = ys.length) : SamePosition (streamSteps T g xs e).2 (streamSteps T k ys f).2 := by
  have hx := streamSteps_samePosition T g xs e
  have hy := streamSteps_samePosition T k ys f
  rw [← hlen] at hy
  exact (hx.trans (h.finalSteps T xs.length)).trans hy.symm

theorem clocks_pair_congr (T : Taps) {e f : Engine} (hl : e.lfsr = f.lfsr) (hn : e.nfsr = f.nfsr) (n : Nat) :
    (clocks T n e).lfsr = (clocks T n f).lfsr ∧ (clocks T n e).nfsr = (clocks T n f).nfsr := by
  induction n generalizing e f with
  | zero => exact ⟨hl, hn⟩
  | succ n ih => exact ih (by simp only [clock_lfsr, hl]) (by simp only [clock_nfsr, hl, hn])

/-- Steps of any kind move the register pair as register clocks do (R140, R97). -/
theorem finalSteps_pair (T : Taps) (n : Nat) (e : Engine) :
    (finalSteps T n e).lfsr = (clocks T n e).lfsr ∧ (finalSteps T n e).nfsr = (clocks T n e).nfsr := by
  induction n generalizing e with
  | zero =>
    rw [finalSteps_zero]
    exact ⟨rfl, rfl⟩
  | succ n ih =>
    obtain ⟨hl, hn⟩ := ih (engineStep T .ks false e)
    obtain ⟨cl, cn⟩ := clocks_pair_congr T (engineStep_lfsr T .ks false e) (engineStep_nfsr T .ks false e) n
    rw [finalSteps_succ]
    exact ⟨hl.trans cl, hn.trans cn⟩

/-- Running the loop on its own result bits from the same position gives the operand bits back (R141). -/
theorem streamSteps_involutive (T : Taps) (g k : GateSel) (xs : List Bool) {e f : Engine} (h : SamePosition e f) :
    (streamSteps T k (streamSteps T g xs e).1 f).1 = xs := by
  induction xs generalizing e f with
  | nil => rfl
  | cons x xs ih =>
    rw [streamSteps, streamSteps, clockBit_congr T h.lfsr h.nfsr, ih (h.engineStep T g k x _), Bool.xor_assoc,
      Bool.xor_self, Bool.xor_false]

/-- Two gate selectors that pick the same bit, one reading the operand and the other the result, leave the same engine
(R142, R143). -/
theorem streamSteps_of_result (T : Taps) {g k : GateSel} (same : ∀ x y, gateBit k (x ^^ y) y = gateBit g x y)
    (xs : List Bool) (e : Engine) : (streamSteps T k (streamSteps T g xs e).1 e).2 = (streamSteps T g xs e).2 := by
  induction xs generalizing e with
  | nil => rfl
  | cons x xs ih =>
    have step : engineStep T k (x ^^ clockBit T e) e = engineStep T g x e := by rw [engineStep, same, engineStep]
    rw [streamSteps, streamSteps, step]
    exact ih (engineStep T g x e)

end Sys2Proof.Machine

/-! ### Operand and result bits of a data unit (20_memory.md R54, R55; R131) -/

namespace Sys2Proof.Machine

theorem length_unitBits (u : DataUnit) : (unitBits u).length = u.steps := by cases u <;> rfl

theorem assembleByte_byteBits (d : Byte) : assembleByte (byteBits d) = d := by
  apply BitVec.eq_of_getLsbD_eq
  intro i hi
  rw [getLsbD_assembleByte _ hi]
  interval_cases i <;> rfl

/-- Eight bits are the operand bits of the byte they assemble to. -/
theorem byteBits_assembleByte {bs : List Bool} (h : bs.length = 8) : byteBits (assembleByte bs) = bs := by
  refine List.ext_getElem (by rw [h]; rfl) ?_
  intro j hj hb
  rw [getElem_byteBits _ j hj, getLsbD_assembleByte bs (by omega), List.getElem?_reverse (by omega),
    show bs.length - 1 - (7 - j) = j by omega, List.getElem?_eq_getElem hb, Option.getD_some]

/-- The unit a response holds has the result bits as its operand bits (R131, R141). -/
theorem unitBits_reply {u : DataUnit} {bs : List Bool} (h : bs.length = (unitBits u).length) :
    unitBits (u.reply (assembleByte bs)) = bs := by
  cases u with
  | bit b =>
    obtain ⟨c, rfl⟩ := List.length_eq_one_iff.mp h
    cases c <;> rfl
  | byte d => exact byteBits_assembleByte h

theorem reply_reply (u : DataUnit) (r q : Byte) : (u.reply r).reply q = u.reply q := by cases u <;> rfl

theorem reply_assembleByte_unitBits (u : DataUnit) : u.reply (assembleByte (unitBits u)) = u := by
  cases u with
  | bit b => cases b <;> rfl
  | byte d => exact congrArg DataUnit.byte (assembleByte_byteBits d)

end Sys2Proof.Machine

/-! ### One stream command of the hardware (R132 to R139) -/

namespace Sys2Proof.Machine

theorem exec_unitCommand (kind : StreamKind) (unit : DataUnit) (s : State) :
    exec (unitCommand kind unit) s = stream Config.params kind (unitBits unit) s :=
  (Proofs.execIsConfigured _ s).trans (execWith_unitCommand Config.params kind unit s)

section OneCommand

variable {kind : StreamKind} (unit : DataUnit) {s : State}

theorem exec_unitCommand_accepted (h : streamAccepted kind s.phase = true) :
    exec (unitCommand kind unit) s = .next
      { s with
        engine := (streamSteps Config.params.taps (gateSel kind Config.params.authPolicy) (unitBits unit) s.engine).2
        phase := streamPhase kind
        rsp := some (responseWord .ok (streamData kind
          (streamSteps Config.params.taps (gateSel kind Config.params.authPolicy) (unitBits unit) s.engine).1)) } := by
  rw [exec_unitCommand, stream_accepted _ _ _ _ h]

theorem exec_unitCommand_rejected (h : streamAccepted kind s.phase = false) :
    exec (unitCommand kind unit) s = .next { s with rsp := some 0x4000 } := by
  rw [exec_unitCommand, stream_rejected _ _ _ _ h]
  rfl

/-- An accepted bit command is one `STEP`; it answers from the result bit and gates by the policy's bit (R130, R131). -/
theorem exec_bit_accepted (b : Bool) (h : streamAccepted kind s.phase = true) :
    ∃ (y : Bool) (e : Engine),
      StepRel Config.params.taps y (gateBit (gateSel kind Config.params.authPolicy) b y) s.engine e
        ∧ exec (unitCommand kind (.bit b)) s = .next
          { s with engine := e, phase := streamPhase kind, rsp := some (responseWord .ok (streamData kind [b ^^ y])) } :=
  ⟨_, _, engineStep_rel _ _ b s.engine, exec_unitCommand_accepted (.bit b) h⟩

end OneCommand

/-- `AD` is accepted before any data (10_state.md R30). -/
theorem streamAccepted_ad {p : Phase} (hp : p = .initialized ∨ p = .absorbingAd) : streamAccepted .ad p = true := by
  obtain rfl | rfl := hp <;> rfl

/-- No stream command is accepted outside a session (10_state.md R30). -/
theorem streamAccepted_outside (kind : StreamKind) {p : Phase} (hp : p = .uninit ∨ p = .finalized) :
    streamAccepted kind p = false := by
  obtain rfl | rfl := hp <;> cases kind <;> rfl

/-- The `ENC` row of R130. -/
theorem gateBit_enc (P : AuthPolicy) (x y : Bool) : gateBit (gateSel .enc P) x y = if P = .ct then x ^^ y else x := by
  cases P <;> rfl

/-- The `DEC` row of R130. -/
theorem gateBit_dec (P : AuthPolicy) (x y : Bool) : gateBit (gateSel .dec P) x y = if P = .pt then x ^^ y else x := by
  cases P <;> rfl

/-- The kinds that absorb return no data (R131). -/
theorem response_of_absorb {kind : StreamKind} (hk : kind = .ad ∨ kind = .mac) (bs : List Bool) :
    responseWord .ok (streamData kind bs) = 0x0000 := by
  have silent : streamData kind bs = 0 := by obtain rfl | rfl := hk <;> rfl
  rw [silent]
  rfl

/-- The kinds that encrypt and decrypt return the result bits (R131). -/
theorem streamData_of_cipher {kind : StreamKind} (hk : kind = .enc ∨ kind = .dec) (bs : List Bool) :
    streamData kind bs = assembleByte bs := by
  obtain rfl | rfl := hk <;> rfl

/-- A single result bit stands in bit 0 of the response (R131). -/
theorem response_of_bit {kind : StreamKind} (hk : kind = .enc ∨ kind = .dec) (b : Bool) :
    responseWord .ok (streamData kind [b]) = 0#15 ++ BitVec.ofBool b := by
  rw [streamData_of_cipher hk]
  cases b <;> rfl

/-- The result byte of a byte-wide command, with `K` the keystream byte (20_memory.md R54). -/
theorem response_of_byte {kind : StreamKind} (hk : kind = .enc ∨ kind = .dec) (T : Taps) (g : GateSel) {d K : Byte}
    {e : Engine} (hK : ∀ j, j < 8 → (keystream T 8 e)[j]? = some (K.getLsbD (7 - j))) :
    responseWord .ok (streamData kind (streamSteps T g (unitBits (.byte d)) e).1) = 0#8 ++ (d ^^^ K) := by
  have result : (streamSteps T g (byteBits d) e).1 = byteBits (d ^^^ K) := by
    refine List.ext_getElem (streamSteps_length T g (byteBits d) e) fun j hj hb => ?_
    have operand : (byteBits d)[j]? = some (d.getLsbD (7 - j)) :=
      List.getElem?_eq_some_iff.mpr ⟨hb, getElem_byteBits d j hb⟩
    have key : (keystream T (byteBits d).length e)[j]? = some (K.getLsbD (7 - j)) := hK j hb
    have bit : (streamSteps T g (byteBits d) e).1[j]? = some (d.getLsbD (7 - j) ^^ K.getLsbD (7 - j)) := by
      rw [streamSteps_fst, List.getElem?_zipWith, operand, key]
    rw [getElem_byteBits _ j hb, BitVec.getLsbD_xor]
    exact Option.some.inj ((List.getElem?_eq_getElem hj).symm.trans bit)
  rw [responseWord_ok, streamData_of_cipher hk, unitBits, result, assembleByte_byteBits]

end Sys2Proof.Machine

/-! ### Commands answered OK (30_encoding.md R70) -/

namespace Sys2Proof.Machine

theorem andThen_eq_done {α β : Type} {r : CallResult α} {f : α → State → CallResult β} {b : β} {t : State} :
    andThen r f = .done b t ↔ ∃ a u, r = .done a u ∧ f a u = .done b t := by
  cases r <;> simp [andThen]

section Issue

variable {C : Params} {s t : State} {i : Instr} {d : Byte}

/-- A command that the host sees answered OK met its checks. -/
theorem issue_eq_done (h : issue C i s = .done d t) : ∃ u, Accepted C s i d u ∧ t = setRsp none u := by
  cases run : execWith C i s with
  | fault r => nomatch r
  | refused r =>
    rw [issue, run] at h
    nomatch h
  | next v =>
    cases execWith_ends run with
    | rejected | badParameter | mismatched =>
      rw [issue_fault run rfl (by decide)] at h
      nomatch h
    | accepted effect =>
      rw [issue_ok run rfl] at h
      cases h
      exact ⟨_, effect, rfl⟩

theorem issue_init_done (h : issue C .init s = .done d t) : s.kv = 0xFFFF ∧ s.ivv = 0xFFF := by
  obtain ⟨u, effect, -⟩ := issue_eq_done h
  cases effect with
  | init key iv => exact ⟨key, iv⟩
  | stream operand => nomatch operand

theorem issue_fin_done (h : issue C .fin s = .done d t) : t.engine = finalSteps C.taps 64 s.engine := by
  obtain ⟨u, effect, rfl⟩ := issue_eq_done h
  cases effect with
  | fin => rfl
  | stream operand => nomatch operand

theorem issue_stream_done {kind : StreamKind} {unit : DataUnit} (hi : streamOperand i = some (kind, unit))
    (h : issue C i s = .done d t) :
    t.engine = (streamSteps C.taps (gateSel kind C.authPolicy) (unitBits unit) s.engine).2 := by
  obtain ⟨u, effect, rfl⟩ := issue_eq_done h
  cases effect with
  | stream operand =>
    cases operand.symm.trans hi
    rfl
  | _ => nomatch hi

/-- Engines that agree give the same tag. -/
theorem sameTag_of_engine_eq {u : State} (h : s.engine = u.engine) : SameTag C s u := by
  refine ⟨congrArg Engine.acc h, fun t v a b hs hu => ?_⟩
  rw [tag, tag, issue_fin_done hs, issue_fin_done hu, h]

end Issue

/-- A run of stream commands moves the position by its number of steps (R140). -/
theorem issueAll_samePosition (C : Params) {is : List (StreamKind × DataUnit)} {iis : List Instr} {s t : State}
    {rs : List Byte} (operands : iis.map streamOperand = is.map some) (h : issueAll C iis s = .done rs t) :
    SamePosition t.engine (finalSteps C.taps (is.map fun p => p.2.steps).sum s.engine) := by
  induction is generalizing iis s rs with
  | nil =>
    cases List.map_eq_nil_iff.mp operands
    cases h
    rw [List.map_nil, List.sum_nil, finalSteps_zero]
    exact .refl _
  | cons p is ih =>
    obtain ⟨kind, unit⟩ := p
    obtain ⟨i, iis, rfl, hi, rest⟩ := List.map_eq_cons_iff.mp operands
    obtain ⟨d, u, first, h⟩ := andThen_eq_done.mp h
    obtain ⟨ds, v, later, h⟩ := andThen_eq_done.mp h
    cases h
    rw [List.map_cons, List.sum_cons, finalSteps_add]
    refine (ih rest later).trans (SamePosition.finalSteps ?_ C.taps _)
    rw [issue_stream_done hi first, ← length_unitBits]
    exact streamSteps_samePosition _ _ _ _

end Sys2Proof.Machine

/-! ### The data of a session, unit by unit (R141) -/

namespace Sys2Proof.Machine

/-- The data bytes that the commands of one kind answer on these units. -/
def unitAnswers (C : Params) (kind : StreamKind) : List DataUnit → Engine → List Byte
  | [], _ => []
  | u :: us, e =>
    streamData kind (streamSteps C.taps (gateSel kind C.authPolicy) (unitBits u) e).1 ::
      unitAnswers C kind us (streamSteps C.taps (gateSel kind C.authPolicy) (unitBits u) e).2

/-- The engine after these commands: the loop over the bits of all the units. -/
def unitsEngine (C : Params) (kind : StreamKind) (us : List DataUnit) (e : Engine) : Engine :=
  (streamSteps C.taps (gateSel kind C.authPolicy) (us.flatMap unitBits) e).2

theorem unitsEngine_cons (C : Params) (kind : StreamKind) (u : DataUnit) (us : List DataUnit) (e : Engine) :
    unitsEngine C kind (u :: us) e =
      unitsEngine C kind us (streamSteps C.taps (gateSel kind C.authPolicy) (unitBits u) e).2 := by
  rw [unitsEngine, List.flatMap_cons, streamSteps_append, unitsEngine]

theorem length_unitAnswers (C : Params) (kind : StreamKind) (us : List DataUnit) (e : Engine) :
    (unitAnswers C kind us e).length = us.length := by
  induction us generalizing e with
  | nil => rfl
  | cons u us ih => rw [unitAnswers, List.length_cons, List.length_cons, ih]

/-- In a phase that accepts the kind, its commands are all answered OK and move the engine, the phase and the port only. -/
theorem issueAll_unitCommands (C : Params) {kind : StreamKind} (us : List DataUnit) {s : State}
    (h : streamAccepted kind s.phase = true) :
    ∃ (p : Phase) (r : Option Word), (p = s.phase ∨ p = streamPhase kind) ∧
      issueAll C (us.map (unitCommand kind)) s = .done (unitAnswers C kind us s.engine)
        { s with engine := unitsEngine C kind us s.engine, phase := p, rsp := r } := by
  induction us generalizing s with
  | nil => exact ⟨s.phase, s.rsp, .inl rfl, rfl⟩
  | cons u us ih =>
    obtain ⟨p, r, hp, run⟩ := ih (s := { s with
      engine := (streamSteps C.taps (gateSel kind C.authPolicy) (unitBits u) s.engine).2
      phase := streamPhase kind, rsp := none }) (streamAccepted_streamPhase kind)
    refine ⟨p, r, .inr (hp.elim id id), ?_⟩
    rw [List.map_cons, issueAll_cons C (issue_stream_accepted C kind u s h), run, unitsEngine_cons]
    rfl

/-- The ciphertext that encryption of these units from this engine answers. -/
def cipherUnits (C : Params) (us : List DataUnit) (e : Engine) : List DataUnit :=
  List.zipWith DataUnit.reply us (unitAnswers C .enc us e)

theorem cipherUnits_cons (C : Params) (u : DataUnit) (us : List DataUnit) (e : Engine) :
    cipherUnits C (u :: us) e =
      u.reply (assembleByte (streamSteps C.taps (gateSel .enc C.authPolicy) (unitBits u) e).1) ::
        cipherUnits C us (streamSteps C.taps (gateSel .enc C.authPolicy) (unitBits u) e).2 := rfl

/-- The ciphertext unit's operand bits are the result bits of its encryption. -/
theorem unitBits_cipher (T : Taps) (g : GateSel) (u : DataUnit) (e : Engine) :
    unitBits (u.reply (assembleByte (streamSteps T g (unitBits u) e).1)) = (streamSteps T g (unitBits u) e).1 :=
  unitBits_reply (streamSteps_length T g _ e)

/-- Decryption of the ciphertext from the same position answers the plaintext (R141). -/
theorem decrypt_cipherUnits (C : Params) (us : List DataUnit) {e f : Engine} (h : SamePosition e f) :
    List.zipWith DataUnit.reply (cipherUnits C us e) (unitAnswers C .dec (cipherUnits C us e) f) = us := by
  induction us generalizing e f with
  | nil => rfl
  | cons u us ih =>
    have plain := streamSteps_involutive C.taps (gateSel .enc C.authPolicy) (gateSel .dec C.authPolicy) (unitBits u) h
    have next := h.streamSteps C.taps (gateSel .enc C.authPolicy) (gateSel .dec C.authPolicy)
      (streamSteps_length C.taps (gateSel .enc C.authPolicy) (unitBits u) e).symm
    rw [cipherUnits_cons, unitAnswers, List.zipWith_cons_cons, reply_reply, unitBits_cipher, ih next,
      streamData_of_cipher (.inr rfl), plain, reply_assembleByte_unitBits]

/-- The operand bits of the whole ciphertext are the result bits of its encryption. -/
theorem flatMap_unitBits_cipherUnits (C : Params) (us : List DataUnit) (e : Engine) :
    (cipherUnits C us e).flatMap unitBits =
      (streamSteps C.taps (gateSel .enc C.authPolicy) (us.flatMap unitBits) e).1 := by
  induction us generalizing e with
  | nil => rfl
  | cons u us ih => rw [cipherUnits_cons, List.flatMap_cons, List.flatMap_cons, streamSteps_append, unitBits_cipher, ih]

/-- A kind that gates by the same bit as encryption leaves the same engine over the ciphertext (R142, R143). -/
theorem unitsEngine_cipherUnits (C : Params) {kind : StreamKind}
    (same : ∀ x y, gateBit (gateSel kind C.authPolicy) (x ^^ y) y = gateBit (gateSel .enc C.authPolicy) x y)
    (us : List DataUnit) (e : Engine) : unitsEngine C kind (cipherUnits C us e) e = unitsEngine C .enc us e := by
  rw [unitsEngine, flatMap_unitBits_cipherUnits, streamSteps_of_result C.taps same, unitsEngine]

end Sys2Proof.Machine

/-! ### Sessions (R141) -/

namespace Sys2Proof.Machine

/-- The engine of a session when its data begins. -/
def dataStart (C : Params) (ad : List DataUnit) (s : State) : Engine :=
  unitsEngine C .ad ad (blindClocks C.taps 320 (loadedEngine s))

/-- It depends on the key and the IV only (10_state.md R34). -/
theorem dataStart_congr (C : Params) (ad : List DataUnit) {s u : State} (hkey : u.key = s.key) (hiv : u.iv = s.iv) :
    dataStart C ad u = dataStart C ad s := by
  rw [dataStart, blindClocks_loadedEngine C.taps hkey hiv, dataStart]

/-- A session with both buffers loaded runs to its end, for each of the three kinds of data. -/
theorem session_loaded (C : Params) (ad : List DataUnit) (kind : StreamKind) (us : List DataUnit) {s : State}
    (hk : s.kv = 0xFFFF) (hv : s.ivv = 0xFFF) :
    ∃ t : State, session C ad (us.map (unitCommand kind)) s = .done (unitAnswers C kind us (dataStart C ad s)) t
      ∧ t.engine = unitsEngine C kind us (dataStart C ad s) := by
  unfold dataStart
  have init := issue_init_loaded C s hk hv
  generalize blindClocks C.taps 320 (loadedEngine s) = e at init ⊢
  obtain ⟨p, r, hp, absorb⟩ := issueAll_unitCommands C (kind := .ad) ad (s := { s with
    engine := e, xtag := 0, xtv := 0, vok := false, vfail := false, phase := .initialized, rsp := none }) rfl
  obtain ⟨q, o, -, run⟩ := issueAll_unitCommands C (kind := kind) us (s := { s with
    engine := unitsEngine C .ad ad e, xtag := 0, xtv := 0, vok := false, vfail := false, phase := p, rsp := r })
    (by obtain rfl | rfl := hp <;> cases kind <;> rfl)
  rw [session, issueAll_cons C init, show adCommand = unitCommand .ad from rfl, absorb]
  exact ⟨_, run, rfl⟩

/-- What a session that completed answered, and where it left the engine. -/
theorem session_done {C : Params} {ad : List DataUnit} {kind : StreamKind} {us : List DataUnit} {s t : State}
    {rs : List Byte} (h : session C ad (us.map (unitCommand kind)) s = .done rs t) :
    rs = unitAnswers C kind us (dataStart C ad s) ∧ t.engine = unitsEngine C kind us (dataStart C ad s) := by
  obtain ⟨_, _, opened, -⟩ := andThen_eq_done.mp h
  obtain ⟨_, _, init, -⟩ := andThen_eq_done.mp opened
  obtain ⟨hk, hv⟩ := issue_init_done init
  obtain ⟨u, run, engine⟩ := session_loaded C ad kind us hk hv
  cases run.symm.trans h
  exact ⟨rfl, engine⟩

end Sys2Proof.Machine

/-! ### The statements -/

namespace Sys2Proof.Proofs

open Sys2Proof Sys2Proof.Machine

/-- Settles O14: an `AD` step is gated by its operand bit. -/
theorem adbMakesOneStep : Obligations.AdbMakesOneStep := by
  intro b s
  refine ⟨by cases b <;> rfl, fun hp => ?accepted, fun hp => ?rejected⟩
  case accepted =>
    obtain ⟨y, e, step, run⟩ := exec_bit_accepted b (streamAccepted_ad hp)
    rw [response_of_absorb (.inl rfl)] at run
    exact ⟨y, e, step, run⟩
  case rejected =>
    have rejected : streamAccepted .ad s.phase = false := by obtain hp | hp | hp := hp <;> rw [hp] <;> rfl
    exact exec_unitCommand_rejected (.bit b) rejected

/-- Settles O15, by the `ENC` row of the gate table. -/
theorem encbMakesOneStep : Obligations.EncbMakesOneStep := by
  intro p s
  refine ⟨by cases p <;> rfl, fun hp => ?accepted, fun hp => ?rejected⟩
  case accepted =>
    obtain ⟨y, e, step, run⟩ := exec_bit_accepted (kind := .enc) p (streamAccepted_data (by decide) hp)
    rw [gateBit_enc] at step
    rw [response_of_bit (.inl rfl)] at run
    exact ⟨y, e, step, run⟩
  case rejected => exact exec_unitCommand_rejected (.bit p) (streamAccepted_outside .enc hp)

/-- Settles O16, by the `DEC` row of the gate table. -/
theorem decbMakesOneStep : Obligations.DecbMakesOneStep := by
  intro c s
  refine ⟨by cases c <;> rfl, fun hp => ?accepted, fun hp => ?rejected⟩
  case accepted =>
    obtain ⟨y, e, step, run⟩ := exec_bit_accepted (kind := .dec) c (streamAccepted_data (by decide) hp)
    rw [gateBit_dec] at step
    rw [response_of_bit (.inr rfl)] at run
    exact ⟨y, e, step, run⟩
  case rejected => exact exec_unitCommand_rejected (.bit c) (streamAccepted_outside .dec hp)

/-- Settles O17: a `MAC` step is gated by its operand bit. -/
theorem macbMakesOneStep : Obligations.MacbMakesOneStep := by
  intro c s
  refine ⟨by cases c <;> rfl, fun hp => ?accepted, fun hp => ?rejected⟩
  case accepted =>
    obtain ⟨y, e, step, run⟩ := exec_bit_accepted (kind := .mac) c (streamAccepted_data (by decide) hp)
    rw [response_of_absorb (.inr rfl)] at run
    exact ⟨y, e, step, run⟩
  case rejected => exact exec_unitCommand_rejected (.bit c) (streamAccepted_outside .mac hp)

/-- Settles O19: the result byte is the operand byte XOR the keystream byte. -/
theorem byteCommandAnswers : Obligations.ByteCommandAnswers := by
  refine ⟨fun d => ⟨rfl, rfl, rfl, rfl⟩, fun d K s hK => ⟨fun hp => ?ad, fun hp => ?data⟩⟩
  case ad =>
    have ad := exec_unitCommand_accepted (.byte d) (streamAccepted_ad hp)
    rw [response_of_absorb (.inl rfl)] at ad
    exact ⟨_, ad⟩
  case data =>
    have enc := exec_unitCommand_accepted (kind := .enc) (.byte d) (streamAccepted_data (by decide) hp)
    have dec := exec_unitCommand_accepted (kind := .dec) (.byte d) (streamAccepted_data (by decide) hp)
    have mac := exec_unitCommand_accepted (kind := .mac) (.byte d) (streamAccepted_data (by decide) hp)
    rw [response_of_byte (.inl rfl) _ _ hK] at enc
    rw [response_of_byte (.inr rfl) _ _ hK] at dec
    rw [response_of_absorb (.inr rfl)] at mac
    exact ⟨_, _, _, enc, dec, mac⟩

/-- Settles O20: the steps of an accepted command move the register pair as register clocks do. -/
theorem registerPairIgnoresData : Obligations.RegisterPairIgnoresData := by
  intro C i s t h hp
  refine ⟨fun kind unit hi => ?stream, fun hi => ?fin⟩
  case stream =>
    have accepted : streamAccepted kind s.phase = true := by
      by_contra rejected
      exact hp (by rw [nextPhase_of_streamOperand hi, if_neg rejected])
    rw [execWith_of_streamOperand C hi, stream_accepted C kind _ s accepted] at h
    cases h
    obtain ⟨hl, hn, -⟩ := streamSteps_samePosition C.taps (gateSel kind C.authPolicy) (unitBits unit) s.engine
    obtain ⟨cl, cn⟩ := finalSteps_pair C.taps (unitBits unit).length s.engine
    rw [← length_unitBits]
    exact ⟨hl.trans cl, hn.trans cn⟩
  case fin =>
    subst hi
    have accepted : finAccepted s.phase = true := by
      by_contra rejected
      exact hp (by rw [nextPhase_fin, if_neg rejected])
    cases (finWith_accepted C s accepted).symm.trans h
    exact finalSteps_pair C.taps 64 s.engine

/-- Settles O21: each run moves the position by the same number of steps. -/
theorem keystreamPositionIsStepCount : Obligations.KeystreamPositionIsStepCount := by
  intro C is js iis jjs s u t v rs qs operands operands' steps hl hn hs h h'
  have ht := issueAll_samePosition C operands h
  have hv := issueAll_samePosition C operands' h'
  rw [← steps] at hv
  obtain ⟨lfsr, nfsr, sr⟩ := (ht.trans (SamePosition.finalSteps ⟨hl, hn, hs⟩ C.taps _)).trans hv.symm
  exact ⟨lfsr, nfsr, sr⟩

/-- Settles O22: both sessions begin their data with the same engine, and XOR with the keystream is its own inverse. -/
theorem roundTrip : Obligations.RoundTrip := by
  intro C ad pts s u t rs hkey hiv hk hv h cts
  obtain ⟨answers, -⟩ := session_done (kind := .enc) h
  have cipher : cts = cipherUnits C pts (dataStart C ad s) := by rw [cipherUnits, ← answers]
  obtain ⟨v, run, -⟩ := session_loaded C ad .dec cts hk hv
  refine ⟨_, v, run, ?length, ?plain⟩
  case length => rw [cipher, cipherUnits, List.length_zipWith, length_unitAnswers, Nat.min_self]
  case plain =>
    rw [cipher, dataStart_congr C ad hkey hiv]
    exact decrypt_cipherUnits C pts (.refl _)

/-- Settles O23: under `PT` and `CT` both sessions gate by the same bits, under `SRC` each by its operand bits. -/
theorem encryptDecryptTagsAgree : Obligations.EncryptDecryptTagsAgree := by
  intro C ad pts s u t v rs qs hkey hiv enc dec policy
  obtain ⟨rfl, ht⟩ := session_done (kind := .enc) enc
  obtain ⟨-, hv⟩ := session_done (kind := .dec) dec
  rw [dataStart_congr C ad hkey hiv] at hv
  apply sameTag_of_engine_eq
  rw [ht, hv]
  by_cases src : C.authPolicy = .src
  · have unchanged := policy.resolve_left (not_not.mpr src)
    rw [unchanged, unitsEngine, unitsEngine, src]
    rfl
  · have same : ∀ x y, gateBit (gateSel .dec C.authPolicy) (x ^^ y) y = gateBit (gateSel .enc C.authPolicy) x y := by
      cases hC : C.authPolicy with
      | pt | ct => decide
      | src => exact absurd hC src
    exact (unitsEngine_cipherUnits C same pts _).symm

/-- Settles O24: tag-only absorption gates by the ciphertext, as decryption does under `CT` and `SRC` and encryption does under
`CT`. -/
theorem tagOnlySessionAgrees : Obligations.TagOnlySessionAgrees := by
  intro C ad pts s u w t v x rs qs ms hkey hiv hkey' hiv' enc dec mac
  obtain ⟨rfl, ht⟩ := session_done (kind := .enc) enc
  obtain ⟨-, hv⟩ := session_done (kind := .dec) dec
  obtain ⟨-, hx⟩ := session_done (kind := .mac) mac
  rw [dataStart_congr C ad hkey hiv] at hv
  rw [dataStart_congr C ad hkey' hiv'] at hx
  refine ⟨fun policy => sameTag_of_engine_eq ?dec, fun policy => sameTag_of_engine_eq ?enc⟩
  case dec =>
    rw [hx, hv]
    obtain policy | rfl := policy
    · have same : gateSel .mac C.authPolicy = gateSel .dec C.authPolicy := by
        cases hC : C.authPolicy with
        | pt => exact absurd hC policy
        | ct | src => rfl
      rw [unitsEngine, same, unitsEngine]
    · rfl
  case enc =>
    rw [hx, ht]
    obtain policy | rfl := policy
    · exact unitsEngine_cipherUnits C (by rw [policy]; decide) pts _
    · rfl

end Sys2Proof.Proofs

/-! ## Finalization, tag and status: what `FIN`, `RDTAG`, `LDXT`, `VFY` and `RDST` write and answer (spec
43_finalize_and_tag.md) -/

/-! ### The finalization steps (R150, R151) -/

namespace Sys2Proof.Machine

/-- The phases that accept `FIN` (10_state.md R30). -/
theorem finAccepted_inside {p : Phase} (hp : p = .initialized ∨ p = .absorbingAd ∨ p = .generating) :
    finAccepted p = true := by
  obtain rfl | rfl | rfl := hp <;> rfl

theorem finAccepted_outside {p : Phase} (hp : p = .uninit ∨ p = .finalized) : finAccepted p = false := by
  obtain rfl | rfl := hp <;> rfl

theorem finAccepted_of_nextPhase {p : Phase} (h : nextPhase .fin p ≠ none) : finAccepted p = true := by
  by_contra rejected
  exact h (by rw [nextPhase_fin, if_neg rejected])

/-- The last of `n + 1` finalization steps, from the engine the first `n` leave. -/
theorem finalSteps_succ_last (T : Taps) (n : Nat) (e : Engine) :
    finalSteps T (n + 1) e = engineStep T .ks false (finalSteps T n e) := by
  rw [finalSteps_add, finalSteps_succ, finalSteps_zero]

/-- Each step of the loop is gated by the keystream bit it returns (R150). -/
theorem finalSteps_rel (T : Taps) (n : Nat) (e : Engine) :
    StepRel T (clockBit T (finalSteps T n e)) (clockBit T (finalSteps T n e)) (finalSteps T n e)
      (finalSteps T (n + 1) e) := by
  rw [finalSteps_succ_last]
  exact engineStep_rel T .ks false _

/-- `n` steps move the bits of `SR` down by `n` places (40_register_pair_and_combiner.md R96). -/
theorem getLsbD_finalSteps_sr (T : Taps) (e : Engine) {n i : Nat} (h : i + n < 128) :
    (finalSteps T n e).sr.getLsbD i = e.sr.getLsbD (i + n) := by
  induction n generalizing i with
  | zero => rw [finalSteps_zero, Nat.add_zero]
  | succ n ih =>
    rw [finalSteps_succ_last, engineStep_sr, getLsbD_shiftIn_of_lt _ _ (by omega), ih (by omega), Nat.add_right_comm,
      Nat.add_assoc]

end Sys2Proof.Machine

/-! ### The tag, the expected tag and the verdict (R152, R154, R156) -/

namespace Sys2Proof.Machine

section Index

variable {k : BitVec 4} {s : State}

theorem execRdtag_accepted (hp : s.phase = .finalized) (hk : k.toNat < 8) :
    execRdtag k s = respond (bufRead s.engine.acc k.toNat) s := by
  rw [execRdtag, if_neg (not_not.mpr hp), if_neg (Nat.not_le.mpr hk)]

/-- An index past the 8 tag bytes (60_exceptions.md R191). -/
theorem execRdtag_badIndex (hp : s.phase = .finalized) (hk : 8 ≤ k.toNat) : execRdtag k s = raise .invalidParameter s := by
  rw [execRdtag, if_neg (not_not.mpr hp), if_pos hk]

theorem execRdtag_rejected (hp : s.phase ≠ .finalized) : execRdtag k s = raise .protocolError s :=
  if_pos hp

theorem execLdxt_accepted (byte : Byte) (hp : s.phase ≠ .uninit) (hk : k.toNat < 8) :
    execLdxt k byte s = respond 0 (clearVerdict (writeXtagByte k.toNat byte s)) := by
  rw [execLdxt, if_neg hp, if_neg (Nat.not_le.mpr hk)]

/-- An index past the 8 expected-tag bytes (60_exceptions.md R191). -/
theorem execLdxt_badIndex (byte : Byte) (hp : s.phase ≠ .uninit) (hk : 8 ≤ k.toNat) :
    execLdxt k byte s = raise .invalidParameter s := by
  rw [execLdxt, if_neg hp, if_pos hk]

theorem execLdxt_rejected (byte : Byte) (hp : s.phase = .uninit) : execLdxt k byte s = raise .protocolError s :=
  if_pos hp

end Index

/-- A byte of a buffer in shift form. -/
theorem bufRead_eq_setWidth_ushiftRight {n : Nat} (B : BitVec n) (k : Nat) : bufRead B k = (B >>> (8 * k)).setWidth 8 :=
  BitVec.setWidth_ushiftRight_eq_extractLsb.symm

/-- The comparison of `VFY` bit by bit (R155). -/
theorem eq_tag_iff_getLsbD {X : BitVec 64} {s : State} :
    X = tag s ↔ ∀ i, i < 64 → X.getLsbD i = s.engine.acc.getLsbD i := by
  rw [BitVec.eq_of_getLsbD_eq_iff]
  refine forall₂_congr fun i hi => ?_
  rw [tag, BitVec.getLsbD_extractLsb', decide_eq_true hi, Bool.true_and, Nat.zero_add]

theorem execVfy_match {s : State} (hp : s.phase = .finalized) (hx : s.xtv = 0xFF) (same : s.xtag = tag s) :
    execVfy s = respond 0 (setVerdict true s) :=
  (execVfy_loaded hp hx).trans (if_pos same)

theorem execVfy_mismatch {s : State} (hp : s.phase = .finalized) (hx : s.xtv = 0xFF) (differ : s.xtag ≠ tag s) :
    execVfy s = raise .authenticationFailure (setVerdict false s) :=
  (execVfy_loaded hp hx).trans (if_neg differ)

/-- A shorter expected tag is a wrong parameter (R156). -/
theorem execVfy_notLoaded {s : State} (hp : s.phase = .finalized) (hx : s.xtv ≠ 0xFF) :
    execVfy s = raise .invalidParameter s := by
  rw [execVfy, if_neg (not_not.mpr hp), if_pos (by simpa [xtagReady] using hx)]

theorem execVfy_rejected {s : State} (hp : s.phase ≠ .finalized) : execVfy s = raise .protocolError s :=
  if_pos hp

end Sys2Proof.Machine

/-! ### The status byte (R157, 10_state.md R32) -/

namespace Sys2Proof.Machine

theorem extractLsb'_status_phase (s : State) : (status s).extractLsb' 0 3 = phaseCode s.phase :=
  BitVec.extractLsb'_append_eq_right

/-- The five flags above the phase code, from bit 3 up. -/
theorem getLsbD_status (s : State) :
    (status s).getLsbD 3 = keyReady s ∧ (status s).getLsbD 4 = ivReady s ∧ (status s).getLsbD 5 = xtagReady s
      ∧ (status s).getLsbD 6 = s.vok ∧ (status s).getLsbD 7 = s.vfail := by
  simp only [status, BitVec.getLsbD_append, BitVec.getLsbD_ofBool]
  simp

end Sys2Proof.Machine

/-! ### The statements -/

namespace Sys2Proof.Proofs

open Sys2Proof Sys2Proof.Machine

/-- Settles O26: the engines are those after each number of finalization steps. -/
theorem finMakesSixtyFourSteps : Obligations.FinMakesSixtyFourSteps := by
  refine ⟨rfl, fun s => ⟨fun hp => ?accepted, fun hp => finWith_rejected Config.params s (finAccepted_outside hp)⟩⟩
  case accepted =>
    exact ⟨fun n => clockBit Config.params.taps (finalSteps Config.params.taps n s.engine),
      fun n => finalSteps Config.params.taps n s.engine, finalSteps_zero _ _,
      fun n _ => finalSteps_rel Config.params.taps n s.engine,
      finWith_accepted Config.params s (finAccepted_inside hp)⟩

/-- Settles O27: each of the 64 steps moves `SR` down by one place. -/
theorem finMovesSrDown : Obligations.FinMovesSrDown := by
  intro C s t hp h
  cases (finWith_accepted C s (finAccepted_of_nextPhase hp)).symm.trans h
  apply BitVec.eq_of_getLsbD_eq
  intro i hi
  rw [BitVec.getLsbD_extractLsb', BitVec.getLsbD_extractLsb', Nat.zero_add, getLsbD_finalSteps_sr _ _ (by omega),
    Nat.add_comm]

/-- Settles O29: `XTAG` and its valid mask are written as the shared buffer operations write, and the verdict is cleared. -/
theorem ldxtWritesExpectedTagByte : Obligations.LdxtWritesExpectedTagByte := by
  refine fun k byte s => ⟨rfl, fun hp hk => ?accepted, fun hp hk => execLdxt_badIndex byte hp hk,
    fun hp => execLdxt_rejected byte hp⟩
  case accepted =>
    exact ⟨_, execLdxt_accepted byte hp hk, rfl, fun _ hi => getLsbD_bufWrite_eq_ite_div s.xtag k.toNat byte hi,
      fun j hj => getLsbD_markWritten s.xtv k.toNat j hj⟩

/-- Settles O30: the comparison is of all 64 bits, and comes after both fault checks. -/
theorem vfyComparesTags : Obligations.VfyComparesTags := by
  refine ⟨rfl, fun s => ⟨fun hp hx same => ?equal, fun hp hx differ => ?differs, fun hp hx => execVfy_notLoaded hp hx,
    fun hp => execVfy_rejected hp⟩⟩
  case equal => exact execVfy_match hp hx (eq_tag_iff_getLsbD.mpr same)
  case differs =>
    obtain ⟨i, hi, bit⟩ := differ
    exact execVfy_mismatch hp hx fun same => bit (eq_tag_iff_getLsbD.mp same i hi)

/-- Settles O31: the data byte is `STATUS`, whose fields are known. -/
theorem rdstReturnsStatus : Obligations.RdstReturnsStatus := by
  refine ⟨rfl, fun s => ⟨status s, ?answer, ?phase, getLsbD_status s⟩⟩
  case answer =>
    rw [← responseWord_ok]
    exact respond_eq (status s) s
  case phase =>
    rw [extractLsb'_status_phase]
    cases s.phase <;> rfl

/-- Settles O28: `RDTAG` reads `ACC` by the byte and writes nothing. -/
theorem rdtagReturnsTagByte : Obligations.RdtagReturnsTagByte := by
  refine fun k s => ⟨rfl, fun hp hk => ?accepted, fun hp hk => execRdtag_badIndex hp hk, fun hp => execRdtag_rejected hp⟩
  case accepted =>
    rw [← bufRead_eq_setWidth_ushiftRight, ← responseWord_ok]
    exact execRdtag_accepted hp hk

end Sys2Proof.Proofs

/-! ## Façade: what the host's operations `NEW`, `ENCRYPT`, `DECRYPT_AND_VERIFY` and `VERIFY_THEN_DECRYPT` do (spec
44_facade_macros.md) -/

/-! ### One flipped operand bit (R177) -/

namespace Sys2Proof.Machine

/-- A step over the same operand bit from the same position keeps the difference of the accumulators: both are gated alike
(40_register_pair_and_combiner.md R97). -/
theorem engineStep_acc_xor {e f : Engine} (h : SamePosition e f) (T : Taps) (g : GateSel) (x : Bool) :
    (engineStep T g x e).acc ^^^ (engineStep T g x f).acc = e.acc ^^^ f.acc := by
  rw [engineStep_acc, engineStep_acc, clockBit_congr T h.lfsr h.nfsr, h.sr]
  cases gateBit g x (clockBit T f) with
  | false => rfl
  | true =>
    calc (e.acc ^^^ f.sr) ^^^ (f.acc ^^^ f.sr) = (e.acc ^^^ f.acc) ^^^ (f.sr ^^^ f.sr) := by ac_rfl
      _ = e.acc ^^^ f.acc := by rw [BitVec.xor_self, BitVec.xor_zero]

theorem streamSteps_acc_xor {e f : Engine} (h : SamePosition e f) (T : Taps) (g : GateSel) (xs : List Bool) :
    (streamSteps T g xs e).2.acc ^^^ (streamSteps T g xs f).2.acc = e.acc ^^^ f.acc := by
  induction xs generalizing e f with
  | nil => rfl
  | cons x xs ih => exact (ih (h.engineStep T g g x x)).trans (engineStep_acc_xor h T g x)

theorem gateBit_not {g : GateSel} (hg : g ≠ .ks) (x y : Bool) : gateBit g (!x) y = !gateBit g x y := by
  cases g with
  | operand => rfl
  | operandXorKs => exact Bool.not_xor x y
  | ks => exact absurd rfl hg

/-- Of two steps with opposite operand bits exactly one is gated, and it adds `SR` (R97). -/
theorem engineStep_acc_xor_not (T : Taps) {g : GateSel} (hg : g ≠ .ks) (x : Bool) (e : Engine) :
    (engineStep T g x e).acc ^^^ (engineStep T g (!x) e).acc = e.sr := by
  rw [engineStep_acc, engineStep_acc, gateBit_not hg]
  cases gateBit g x (clockBit T e) with
  | false => exact xor_cancel_left e.acc e.sr
  | true => exact xor_xor_cancel_comm e.acc e.sr

theorem streamSteps_append_cons (T : Taps) (g : GateSel) (xs ys : List Bool) (x : Bool) (e : Engine) :
    (streamSteps T g (xs ++ x :: ys) e).2 = (streamSteps T g ys (engineStep T g x (streamSteps T g xs e).2)).2 := by
  rw [streamSteps_append, streamSteps]

end Sys2Proof.Machine

/-! ### The key and the IV written byte by byte (30_encoding.md R79, 20_memory.md R52) -/

namespace Sys2Proof.Machine

/-- A buffer of `m` bytes, each written by one command, is filled from index 0 upwards; `put` is the state around it. -/
theorem issueAll_indexed {C : Params} {n m : Nat} {f : BitVec 4 → Byte → Instr} {put : BitVec n → BitVec m → State}
    (size : n = 8 * m) (write : ∀ k, k < m → ∀ byte B M,
      issue C (f (BitVec.ofNat 4 k) byte) (put B M) = .done 0 (put (bufWrite B k byte) (markWritten M k)))
    {bytes : List Byte} (hlen : bytes.length ≤ m) (B : BitVec n) (M : BitVec m) :
    ∃ B' M', issueAll C (indexed f bytes) (put B M) = .done (List.replicate bytes.length 0) (put B' M')
      ∧ BytesLoaded bytes B' M' := by
  induction bytes using List.reverseRecOn with
  | nil => exact ⟨B, M, rfl, nofun⟩
  | append_singleton bytes b ih =>
    rw [List.length_append, List.length_singleton] at hlen
    obtain ⟨B', M', run, loaded⟩ := ih (by omega)
    have split : indexed f (bytes ++ [b]) = indexed f bytes ++ [f (BitVec.ofNat 4 bytes.length) b] := List.mapIdx_concat
    refine ⟨_, _, ?_, loaded.append (by omega) b⟩
    rw [split, issueAll_append, run, andThen, issueAll_cons C (write _ hlen b B' M'), List.length_append,
      List.length_singleton, List.replicate_succ']
    rfl

section Load

variable (C : Params) {s : State}

theorem issue_ldk_uninit {k : Nat} (byte : Byte) (hp : s.phase = .uninit) (hk : k < 16) :
    issue C (.ldk (BitVec.ofNat 4 k) byte) s = .done 0 (setRsp none (writeKeyByte k byte s)) := by
  have run : execWith C (.ldk (BitVec.ofNat 4 k) byte) s = _ := execLdk_uninit byte hp
  rw [issue_ok run rfl, BitVec.toNat_ofNat, Nat.mod_eq_of_lt hk]
  rfl

theorem issue_ldiv_uninit {k : Nat} (byte : Byte) (hp : s.phase = .uninit) (hk : k < 12) :
    issue C (.ldiv (BitVec.ofNat 4 k) byte) s = .done 0 (setRsp none (writeIvByte k byte s)) := by
  have index : (BitVec.ofNat 4 k).toNat = k := Nat.mod_eq_of_lt (by omega)
  have run : execWith C (.ldiv (BitVec.ofNat 4 k) byte) s = _ := execLdiv_uninit byte hp (by omega)
  rw [issue_ok run rfl, index]
  rfl

/-- `LDKEY` of at most 16 bytes writes the key buffer and its valid mask only. -/
theorem issueAll_ldkey {bytes : List Byte} (hlen : bytes.length ≤ 16) (hp : s.phase = .uninit) :
    ∃ key kv, issueAll C (ldkey bytes) { s with rsp := none } =
        .done (List.replicate bytes.length 0) { s with key := key, kv := kv, rsp := none }
      ∧ BytesLoaded bytes key kv :=
  issueAll_indexed (put := fun key kv => { s with key := key, kv := kv, rsp := none }) rfl
    (fun _ hk byte _ _ => issue_ldk_uninit C byte hp hk) hlen s.key s.kv

/-- `LDIVEC` of at most 12 bytes writes the IV buffer and its valid mask only. -/
theorem issueAll_ldivec {bytes : List Byte} (hlen : bytes.length ≤ 12) (hp : s.phase = .uninit) :
    ∃ iv ivv, issueAll C (ldivec bytes) { s with rsp := none } =
        .done (List.replicate bytes.length 0) { s with iv := iv, ivv := ivv, rsp := none }
      ∧ BytesLoaded bytes iv ivv :=
  issueAll_indexed (put := fun iv ivv => { s with iv := iv, ivv := ivv, rsp := none }) rfl
    (fun _ hk byte _ _ => issue_ldiv_uninit C byte hp hk) hlen s.iv s.ivv

end Load

/-- A buffer filled to its end has every byte marked as written (10_state.md R26, R27, R28). -/
theorem BytesLoaded.mask_eq {n m : Nat} {bytes : List Byte} {B : BitVec n} {M : BitVec m} (h : BytesLoaded bytes B M)
    (whole : bytes.length = m) : M = BitVec.allOnes m := by
  apply BitVec.eq_of_getLsbD_eq
  intro k hk
  rw [(h k (by omega)).1, BitVec.getLsbD_allOnes, decide_eq_true hk]

/-- Bit `i` of a buffer is bit `i mod 8` of byte `i div 8` (20_memory.md R52). -/
theorem BytesLoaded.bit_eq {n m : Nat} {bytes : List Byte} {B : BitVec n} {M : BitVec m} (h : BytesLoaded bytes B M)
    {i : Nat} (hi : i / 8 < bytes.length) : some (B.getLsbD i) = bytes[i / 8]?.map (·.getLsbD (i % 8)) := by
  rw [List.getElem?_eq_getElem hi, Option.map_some, ← (h (i / 8) hi).2, getLsbD_bufRead, Nat.div_add_mod,
    decide_eq_true (Nat.mod_lt i (by omega)), Bool.true_and]

end Sys2Proof.Machine

/-! ### Sequences answered OK, and what they keep -/

namespace Sys2Proof.Machine

theorem issueAll_append_done {C : Params} {is js : List Instr} {s t u : State} {as bs : List Byte}
    (first : issueAll C is s = .done as t) (later : issueAll C js t = .done bs u) :
    issueAll C (is ++ js) s = .done (as ++ bs) u := by
  rw [issueAll_append, first, andThen, later, andThen]

/-- What each command of a sequence keeps when it is answered OK, the sequence keeps. -/
theorem issueAll_keeps {C : Params} {P : State → Prop} {is : List Instr}
    (keep : ∀ i ∈ is, ∀ s t d, P s → issue C i s = .done d t → P t) {s t : State} {rs : List Byte} (hs : P s)
    (h : issueAll C is s = .done rs t) : P t := by
  induction is generalizing s rs with
  | nil =>
    cases h
    exact hs
  | cons i is ih =>
    obtain ⟨d, u, first, h⟩ := andThen_eq_done.mp h
    obtain ⟨ds, v, later, h⟩ := andThen_eq_done.mp h
    cases h
    exact ih (fun j hj => keep j (List.mem_cons_of_mem i hj)) (keep i List.mem_cons_self s u d hs first) later

/-- `u` holds the key and the IV of `s`, and they are completely loaded. -/
structure SameInstance (s u : State) : Prop where
  key : u.key = s.key
  iv : u.iv = s.iv
  kv : u.kv = 0xFFFF
  ivv : u.ivv = 0xFFF

/-- The commands that write the key or the IV (10_state.md R33). -/
def writesInstance : Instr → Bool
  | .rst | .ldk .. | .ldiv .. => true
  | _ => false

theorem SameInstance.of_issue {C : Params} {s t u : State} {i : Instr} {d : Byte} (h : SameInstance s t)
    (hi : writesInstance i = false) (run : issue C i t = .done d u) : SameInstance s u := by
  obtain ⟨v, effect, rfl⟩ := issue_eq_done run
  obtain ⟨key, kv⟩ := effect.key_eq (by rintro k b rfl; nomatch hi) (by rintro rfl; nomatch hi)
  obtain ⟨iv, ivv⟩ := effect.iv_eq (by rintro k b rfl; nomatch hi) (by rintro rfl; nomatch hi)
  exact ⟨key.trans h.key, iv.trans h.iv, kv.trans h.kv, ivv.trans h.ivv⟩

theorem SameInstance.of_issueAll {C : Params} {s t u : State} {is : List Instr} {rs : List Byte} (h : SameInstance s t)
    (his : ∀ i ∈ is, writesInstance i = false) (run : issueAll C is t = .done rs u) : SameInstance s u :=
  issueAll_keeps (fun i hi _ _ _ hs hrun => hs.of_issue (his i hi) hrun) h run

end Sys2Proof.Machine

/-! ### Sessions over bytes (R171 to R175) -/

namespace Sys2Proof.Machine

/-- The session of a façade operation, before its `FIN`. -/
def byteSession (C : Params) (kind : StreamKind) (ad data : List Byte) (s : State) : CallResult (List Byte) :=
  session C (ad.map .byte) ((data.map .byte).map (unitCommand kind)) s

/-- Its commands are those of the façade. -/
theorem byteSession_eq (C : Params) (kind : StreamKind) (ad data : List Byte) (s : State) :
    byteSession C kind ad data s = andThen (issueAll C (openSession ad) s) fun _ t =>
      issueAll C (data.map fun d => unitCommand kind (.byte d)) t := by
  rw [byteSession, session, List.map_map, List.map_map]
  rfl

theorem byteSession_loaded (C : Params) (kind : StreamKind) (ad data : List Byte) {s : State} (hk : s.kv = 0xFFFF)
    (hv : s.ivv = 0xFFF) : ∃ rs t, byteSession C kind ad data s = .done rs t := by
  obtain ⟨t, run, -⟩ := session_loaded C (ad.map .byte) kind (data.map .byte) hk hv
  exact ⟨_, t, run⟩

section Done

variable {C : Params} {kind : StreamKind} {ad data rs : List Byte} {s t : State}

theorem length_of_byteSession_done (h : byteSession C kind ad data s = .done rs t) : rs.length = data.length := by
  obtain ⟨rfl, -⟩ := session_done h
  rw [length_unitAnswers, List.length_map]

theorem finAccepted_of_issue_init {d : Byte} (h : issue C .init s = .done d t) : finAccepted t.phase = true := by
  obtain ⟨u, effect, rfl⟩ := issue_eq_done h
  cases effect with
  | init => rfl
  | stream operand => nomatch operand

/-- A stream command leaves a phase that accepts `FIN` (10_state.md R30). -/
theorem finAccepted_of_issue_stream {i : Instr} {d : Byte} (hi : (streamOperand i).isSome) (h : issue C i s = .done d t) :
    finAccepted t.phase = true := by
  obtain ⟨u, effect, rfl⟩ := issue_eq_done h
  cases effect with
  | @stream _ kind => cases kind <;> rfl
  | _ => nomatch hi

theorem finAccepted_of_issueAll_bytes (hs : finAccepted s.phase = true)
    (h : issueAll C (data.map fun d => unitCommand kind (.byte d)) s = .done rs t) : finAccepted t.phase = true := by
  refine issueAll_keeps (P := fun s => finAccepted s.phase = true) (fun i hi _ _ _ _ run => ?_) hs h
  obtain ⟨d, -, rfl⟩ := List.mem_map.mp hi
  exact finAccepted_of_issue_stream (by cases kind <;> rfl) run

/-- `FIN` may follow every session. -/
theorem finAccepted_of_byteSession_done (h : byteSession C kind ad data s = .done rs t) : finAccepted t.phase = true := by
  rw [byteSession_eq] at h
  obtain ⟨_, u, opened, fed⟩ := andThen_eq_done.mp h
  obtain ⟨_, v, init, rest⟩ := andThen_eq_done.mp opened
  obtain ⟨_, _, absorbed, same⟩ := andThen_eq_done.mp rest
  cases same
  have started := finAccepted_of_issue_init init
  exact finAccepted_of_issueAll_bytes (finAccepted_of_issueAll_bytes (kind := .ad) started absorbed) fed

theorem SameInstance.of_byteSession {u : State} (h : SameInstance u s) (run : byteSession C kind ad data s = .done rs t) :
    SameInstance u t := by
  rw [byteSession_eq] at run
  obtain ⟨_, v, opened, fed⟩ := andThen_eq_done.mp run
  have opening : ∀ i ∈ openSession ad, writesInstance i = false := by
    rw [openSession, List.forall_mem_cons, List.forall_mem_map]
    exact ⟨rfl, fun _ _ => rfl⟩
  have feeding : ∀ i ∈ data.map fun d => unitCommand kind (.byte d), writesInstance i = false := by
    rw [List.forall_mem_map]
    intro d _
    cases kind <;> rfl
  exact (h.of_issueAll opening opened).of_issueAll feeding fed

end Done

/-- The ciphertext units of a byte session are its response bytes. -/
theorem zipWith_reply_bytes {bs rs : List Byte} (h : rs.length = bs.length) :
    List.zipWith DataUnit.reply (bs.map .byte) rs = rs.map .byte := by
  induction bs generalizing rs with
  | nil =>
    cases List.length_eq_zero_iff.mp h
    rfl
  | cons b bs ih =>
    obtain ⟨r, rs, rfl⟩ := List.exists_cons_of_length_eq_add_one h
    rw [List.map_cons, List.zipWith_cons_cons, ih (Nat.succ.inj h)]
    rfl

/-- From the same key and IV, a decryption of what an encryption answered returns its plaintext
(42_stream_commands.md R141). -/
theorem byteSession_roundTrip {C : Params} {ad pt ct : List Byte} {s t u : State} (h : SameInstance s u)
    (enc : byteSession C .enc ad pt s = .done ct t) : ∃ v, byteSession C .dec ad ct u = .done pt v := by
  obtain ⟨qs, v, dec, -, plain⟩ := Proofs.roundTrip C _ _ s u t ct h.key h.iv h.kv h.ivv enc
  rw [zipWith_reply_bytes (length_of_byteSession_done enc)] at dec plain
  have dec : byteSession C .dec ad ct u = .done qs v := dec
  rw [zipWith_reply_bytes (length_of_byteSession_done dec)] at plain
  rw [List.map_injective_iff.mpr (fun _ _ same => DataUnit.byte.inj same) plain] at dec
  exact ⟨v, dec⟩

end Sys2Proof.Machine

/-! ### `FIN`, the tag read out and verified (R171, R173) -/

namespace Sys2Proof.Machine

theorem SameTag.symm {C : Params} {s u : State} (h : SameTag C s u) : SameTag C u s := by
  obtain ⟨acc, final⟩ := h
  exact ⟨acc.symm, fun t v a b hs hu => (final v t b a hu hs).symm⟩

/-- The bytes read out are those of the tag (20_memory.md R56). -/
theorem tagBytes_eq (s : State) : tagBytes s = (List.range 8).map (bufRead (tag s)) :=
  List.map_congr_left fun k hk => (bufRead_tag s k (List.mem_range.mp hk)).symm

theorem length_tagBytes (s : State) : (tagBytes s).length = 8 := rfl

theorem closeSession_accepted (C : Params) {s : State} (h : finAccepted s.phase = true) :
    ∃ t u, issue C .fin s = .done 0 t ∧ t.phase = .finalized ∧ closeSession C s = .done (tagBytes t) u
      ∧ u.phase = .finalized := by
  have fin := issue_fin_accepted C s h
  generalize finalSteps C.taps 64 s.engine = e at fin
  obtain ⟨u, read, phase, -⟩ := issueAll_rdtag8 C (s := { s with engine := e, phase := .finalized, rsp := none }) rfl
  exact ⟨_, u, fin, rfl, by rw [closeSession, fin, andThen, read], phase⟩

/-- The tag loaded as the expected tag verifies (43_finalize_and_tag.md R156). -/
theorem issueAll_ldtag_vfy (C : Params) {s : State} (hp : s.phase = .finalized) :
    ∃ rs u, issueAll C (ldtag (tagBytes s) ++ [.vfy]) s = .done rs u ∧ u.vok = true := by
  obtain ⟨u, load, phase, engine, loaded⟩ := issueAll_ldtag C (tagBytes s) (Nat.le_refl 8) (by rw [hp]; nofun)
  have bytes : tagBytes u = tagBytes s := by rw [tagBytes, engine, tagBytes]
  have same : u.xtag = tag u := (eq_tag_iff (length_tagBytes s) fun k hk => (loaded k hk).2).mpr bytes.symm
  have vfy := issue_vfy_match C (phase.trans hp) (loaded.mask_eq (length_tagBytes s)) same
  exact ⟨_, _, issueAll_append_done load (issueAll_cons C vfy), rfl⟩

/-- The tag of one session verifies the other when their tags agree. -/
theorem issueAll_verify {C : Params} {s t u : State} {tg : List Byte} (hs : finAccepted s.phase = true)
    (close : closeSession C s = .done tg t) (hu : finAccepted u.phase = true) (same : SameTag C s u) :
    tg.length = 8 ∧ ∃ rs v, issueAll C (.fin :: ldtag tg ++ [.vfy]) u = .done rs v ∧ v.vok = true := by
  obtain ⟨final, _, fin, -, read, -⟩ := closeSession_accepted C hs
  obtain ⟨final', _, fin', finalized, -⟩ := closeSession_accepted C hu
  cases read.symm.trans close
  obtain ⟨-, agree⟩ := same
  have bytes : tagBytes final = tagBytes final' := by
    rw [tagBytes_eq, tagBytes_eq, agree final final' 0 0 fin fin']
  obtain ⟨rs, v, verify, vok⟩ := issueAll_ldtag_vfy C finalized
  refine ⟨length_tagBytes final, 0 :: rs, v, ?_, vok⟩
  rw [bytes, List.cons_append, issueAll_cons C fin', verify]
  rfl

end Sys2Proof.Machine

/-! ### The operations from their sessions (R171, R173, R175) -/

namespace Sys2Proof.Machine

section Operations

variable {C : Params} {ad pt ct tg : List Byte} {s t u : State}

theorem encrypt_eq_done : encrypt C pt ad s = .done (ct, tg) t ↔
    ∃ u, byteSession C .enc ad pt s = .done ct u ∧ closeSession C u = .done tg t := by
  rw [byteSession_eq, encrypt]
  constructor
  · intro h
    obtain ⟨_, v, opened, h⟩ := andThen_eq_done.mp h
    obtain ⟨_, u, fed, h⟩ := andThen_eq_done.mp h
    obtain ⟨_, _, closed, h⟩ := andThen_eq_done.mp h
    cases h
    exact ⟨u, andThen_eq_done.mpr ⟨_, v, opened, fed⟩, closed⟩
  · rintro ⟨u, run, closed⟩
    obtain ⟨_, v, opened, fed⟩ := andThen_eq_done.mp run
    exact andThen_eq_done.mpr ⟨_, v, opened, andThen_eq_done.mpr ⟨ct, u, fed, andThen_eq_done.mpr ⟨tg, t, closed, rfl⟩⟩⟩

theorem decryptAndVerify_done {rs : List Byte} (dec : byteSession C .dec ad ct s = .done pt t) (hlen : tg.length = 8)
    (verify : issueAll C (.fin :: ldtag tg ++ [.vfy]) t = .done rs u) : decryptAndVerify C ct tg ad s = .done pt u := by
  rw [byteSession_eq] at dec
  obtain ⟨_, v, opened, fed⟩ := andThen_eq_done.mp dec
  rw [decryptAndVerify, if_neg (not_not.mpr hlen)]
  exact andThen_eq_done.mpr ⟨_, v, opened, andThen_eq_done.mpr ⟨pt, t, fed, andThen_eq_done.mpr ⟨rs, u, verify, rfl⟩⟩⟩

theorem verifyThenDecrypt_done {ms rs : List Byte} {v : State} (mac : byteSession C .mac ad ct s = .done ms t)
    (verify : issueAll C (.fin :: ldtag tg ++ [.vfy]) t = .done rs u) (dec : byteSession C .dec ad ct u = .done pt v) :
    verifyThenDecrypt C ct tg ad s = .done pt v := by
  rw [byteSession_eq] at mac dec
  obtain ⟨_, w, opened, fed⟩ := andThen_eq_done.mp mac
  rw [verifyThenDecrypt, List.append_assoc]
  exact andThen_eq_done.mpr ⟨_, u, issueAll_append_done (issueAll_append_done opened fed) verify, dec⟩

theorem SameInstance.of_verify {rs : List Byte} (h : SameInstance s t)
    (run : issueAll C (.fin :: ldtag tg ++ [.vfy]) t = .done rs u) : SameInstance s u := by
  refine h.of_issueAll (fun i hi => ?_) run
  obtain hi | hi := List.mem_append.mp hi
  · obtain rfl | hi := List.mem_cons.mp hi
    · rfl
    · obtain ⟨_, _, rfl⟩ := List.mem_mapIdx.mp hi
      rfl
  · cases List.mem_singleton.mp hi
    rfl

end Operations

end Sys2Proof.Machine

/-! ### The statements -/

namespace Sys2Proof.Proofs

open Sys2Proof Sys2Proof.Machine

/-- Settles O25: the flipped step adds `SR` in exactly one of the two runs, and the steps after it are gated alike in both. -/
theorem flippedBitChangesAccBySr : Obligations.FlippedBitChangesAccBySr := by
  intro T g xs ys x e hg
  simp only [streamSteps_append_cons]
  generalize (streamSteps T g xs e).2 = f
  have next : SamePosition (engineStep T g x f) (engineStep T g (!x) f) := (SamePosition.refl f).engineStep T g g x (!x)
  obtain ⟨lfsr, nfsr, sr⟩ := next.streamSteps T g g (xs := ys) rfl
  exact ⟨(streamSteps_acc_xor next T g ys).trans (engineStep_acc_xor_not T hg x f), lfsr, nfsr, sr⟩

/-- Settles O54: after `RST` the two load sequences write their buffers only, byte after byte. -/
theorem newLoadsKeyAndIv : Obligations.NewLoadsKeyAndIv := by
  refine fun C key iv s => ⟨fun hkey hiv => ?loads, fun h => if_pos h⟩
  have reset : execWith C .rst s = respond 0 (resetRegisters s) := rfl
  have rst : issue C .rst s = .done 0 (setRsp none (resetRegisters s)) := by
    rw [issue_ok reset rfl]
    rfl
  obtain ⟨K, KV, keyRun, keyLoaded⟩ := issueAll_ldkey C (s := resetRegisters s) (bytes := key) (by omega) rfl
  obtain ⟨V, VV, ivRun, ivLoaded⟩ := issueAll_ldivec C (s := { resetRegisters s with key := K, kv := KV }) (bytes := iv)
    (by omega) rfl
  have run : newInstance C key iv s =
      .done () { resetRegisters s with key := K, kv := KV, iv := V, ivv := VV, rsp := none } := by
    rw [newInstance, if_neg (by omega), List.cons_append, issueAll_cons C rst, setRsp, issueAll_append_done keyRun ivRun]
    rfl
  cases keyLoaded.mask_eq hkey
  cases ivLoaded.mask_eq hiv
  exact ⟨_, run, rfl, fun i hi => keyLoaded.bit_eq (by omega), fun i hi => ivLoaded.bit_eq (by omega)⟩

/-- Settles O55: the session completes on a loaded key and IV, in a phase that accepts `FIN`. -/
theorem encryptCompletes : Obligations.EncryptCompletes := by
  intro C pt ad s hk hv
  obtain ⟨ct, u, enc⟩ := byteSession_loaded C .enc ad pt hk hv
  obtain ⟨final, t, -, -, close, phase⟩ := closeSession_accepted C (finAccepted_of_byteSession_done enc)
  exact ⟨ct, tagBytes final, t, encrypt_eq_done.mpr ⟨u, enc, close⟩, length_of_byteSession_done enc, length_tagBytes final,
    phase⟩

/-- Settles O56, by R141 for the plaintext and R142 for the tag. -/
theorem decryptAndVerifyAcceptsEncrypt : Obligations.DecryptAndVerifyAcceptsEncrypt := by
  intro C pt ad ct tg s u t policy hkey hiv hk hv run
  obtain ⟨w, enc, close⟩ := encrypt_eq_done.mp run
  obtain ⟨x, dec⟩ := byteSession_roundTrip ⟨hkey, hiv, hk, hv⟩ enc
  have tags : SameTag C w x := by
    refine encryptDecryptTagsAgree C _ _ s u w x ct pt hkey hiv enc ?_ (.inl policy)
    rw [zipWith_reply_bytes (length_of_byteSession_done enc)]
    exact dec
  obtain ⟨hlen, rs, v, verify, vok⟩ := issueAll_verify (finAccepted_of_byteSession_done enc) close
    (finAccepted_of_byteSession_done dec) tags
  exact ⟨v, decryptAndVerify_done dec hlen verify, vok⟩

/-- Settles O57, by R143 for the tag; the first pass keeps the key and the IV, so R141 gives the second pass. -/
theorem verifyThenDecryptAcceptsEncrypt : Obligations.VerifyThenDecryptAcceptsEncrypt := by
  intro C pt ad ct tg s u t policy hkey hiv hk hv run
  obtain ⟨w, enc, close⟩ := encrypt_eq_done.mp run
  have loaded : SameInstance s u := ⟨hkey, hiv, hk, hv⟩
  obtain ⟨x, dec⟩ := byteSession_roundTrip loaded enc
  obtain ⟨ms, y, mac⟩ := byteSession_loaded C .mac ad ct hk hv
  have tags : SameTag C y w := by
    have sessions := tagOnlySessionAgrees C _ _ s u u w x y ct pt ms hkey hiv hkey hiv enc
    rw [zipWith_reply_bytes (length_of_byteSession_done enc)] at sessions
    obtain ⟨-, withEncryption⟩ := sessions dec mac
    exact withEncryption (.inl policy)
  obtain ⟨-, rs, z, verify, -⟩ := issueAll_verify (finAccepted_of_byteSession_done enc) close
    (finAccepted_of_byteSession_done mac) tags.symm
  obtain ⟨v, second⟩ := byteSession_roundTrip ((loaded.of_byteSession mac).of_verify verify) enc
  exact ⟨v, verifyThenDecrypt_done mac verify second⟩

end Sys2Proof.Proofs

/-! ## Exceptions: which fault a word reports, what a fault leaves, what the host cannot see, and the samples that execute no
command (spec 60_exceptions.md) -/

/-! ### The fault table (R196, R197) -/

namespace Sys2Proof.Machine

/-- No stream command checks a parameter or compares tags (R197). -/
theorem checks_of_streamOperand {i : Instr} {kind : StreamKind} {unit : DataUnit}
    (h : streamOperand i = some (kind, unit)) (s : State) : badParameter i s = false ∧ tagMismatch i s = false := by
  cases i <;> cases h <;> exact ⟨rfl, rfl⟩

theorem tag_eq_setWidth (s : State) : tag s = s.engine.acc.setWidth 64 :=
  (BitVec.setWidth_eq_extractLsb' (by decide)).symm

section Faults

variable {C : Params} {s t u : State} {i : Instr} {d : Byte}

/-- A command is accepted only with good parameters and, for `VFY`, with equal tags. -/
theorem Accepted.checks (h : Accepted C s i d u) : badParameter i s = false ∧ tagMismatch i s = false := by
  cases h with
  | nop | rst | ldk | fin | rdst => exact ⟨rfl, rfl⟩
  | ldiv _ _ _ index | rdtag _ _ index | ldxt _ _ _ index => exact ⟨decide_eq_false (not_le.mpr index), rfl⟩
  | init key iv => exact ⟨by simp [badParameter, key, iv], rfl⟩
  | stream operand => exact checks_of_streamOperand operand s
  | vfy _ loaded same => exact ⟨by simp [badParameter, loaded], by simp [tagMismatch, same, tag_eq_setWidth]⟩

theorem Accepted.faultOf_eq (h : Accepted C s i d u) : faultOf i s = .ok := by
  obtain ⟨good, equal⟩ := h.checks
  simp [faultOf, h.nextPhase_eq, good, equal]

/-- However a command ends, it reports the fault that the table gives. -/
theorem Ends.errField_eq (h : Ends C s i t) : t.rsp.map errField = some (errCode (faultOf i s)) := by
  have reports (e : ErrCode) (b : Byte) (v : State) (he : faultOf i s = e) :
      (setRsp (some (responseWord e b)) v).rsp.map errField = some (errCode (faultOf i s)) := by
    rw [he, setRsp_rsp, Option.map_some, errField_responseWord]
  cases h with
  | rejected phase => exact reports _ _ _ (if_pos phase)
  | badParameter phase bad => exact reports _ _ _ ((if_neg phase).trans (if_pos bad))
  | mismatched command phase loaded differ =>
    subst command
    rw [tag_eq_setWidth] at differ
    exact reports _ _ _ (by simp [faultOf, nextPhase, phase, Machine.badParameter, loaded, tagMismatch, differ])
  | accepted effect => exact reports _ _ _ effect.faultOf_eq

end Faults

end Sys2Proof.Machine

/-! ### Samples that execute no command (R195, R206) -/

namespace Sys2Proof.Machine

theorem rejectWord_eq (s : State) : rejectWord s = .next { s with rsp := some 0x5000 } := rfl

theorem step_exhausted {s : State} (hin : s.inputs = []) : step s = .next s := by
  simp [step, nextSample, hin]

/-- A sample that offers nothing while nothing is outstanding. -/
theorem step_idle {s : State} {p : PortInput} {ps : List PortInput} (hin : s.inputs = p :: ps) (hrst : p.rstN = true)
    (hvalid : p.cmdValid = false) (hrsp : s.rsp = none) : step s = .next { s with inputs := ps, stalled := none } := by
  have held : changesStalledCommand p (setInputs ps s) = false :=
    changesStalledCommand_eq_false_of_same fun _ _ offered => absurd (hvalid.symm.trans offered) nofun
  have idle : step s = .next (setStalled none (setInputs ps s)) := by
    simp [step, nextSample, samplePins, hin, hrst, hvalid, hrsp, held]
  exact idle

end Sys2Proof.Machine

/-! ### States that look alike to the host (R201) -/

namespace Sys2Proof.Machine

namespace SameVisible

variable {s u : State} (h : SameVisible s u)

include h

/-! Every operation that a command makes keeps two states alike, whatever it writes to the fields that are not visible. -/

theorem withRsp (r : Option Word) : SameVisible (setRsp r s) (setRsp r u) := { h with rsp := rfl }

theorem withEngine (e f : Engine) : SameVisible (setEngine e s) (setEngine f u) := { h with }

theorem withPhase (p : Phase) : SameVisible (setPhase p s) (setPhase p u) := { h with phase := rfl }

theorem withVerdict (m : Bool) : SameVisible (setVerdict m s) (setVerdict m u) := { h with vok := rfl, vfail := rfl }

theorem clearedVerdict : SameVisible (clearVerdict s) (clearVerdict u) := { h with vok := rfl, vfail := rfl }

theorem clearedXtag : SameVisible (clearXtag s) (clearXtag u) := { h with xtv := rfl }

theorem withKeyByte (k : Nat) (b : Byte) : SameVisible (writeKeyByte k b s) (writeKeyByte k b u) :=
  { h with kv := congrArg (markWritten · k) h.kv }

theorem withIvByte (k : Nat) (b : Byte) : SameVisible (writeIvByte k b s) (writeIvByte k b u) :=
  { h with ivv := congrArg (markWritten · k) h.ivv }

theorem withXtagByte (k : Nat) (b : Byte) : SameVisible (writeXtagByte k b s) (writeXtagByte k b u) :=
  { h with xtv := congrArg (markWritten · k) h.xtv }

theorem resetAll : SameVisible (resetRegisters s) (resetRegisters u) := ⟨rfl, rfl, rfl, rfl, rfl, rfl, h.rsp⟩

/-! What a command consults of the state besides its phase. -/

theorem keyReady_eq : keyReady s = keyReady u := congrArg (· == 0xFFFF) h.kv

theorem ivReady_eq : ivReady s = ivReady u := congrArg (· == 0xFFF) h.ivv

theorem xtagReady_eq : xtagReady s = xtagReady u := congrArg (· == 0xFF) h.xtv

theorem status_eq : status s = status u := by
  rw [status, status, h.vfail, h.vok, h.xtagReady_eq, h.ivReady_eq, h.keyReady_eq, h.phase]

end SameVisible

/-- The host cannot tell the two outcomes apart. -/
def AlikeNext (p q : Result) : Prop := ∀ t v, p = .next t → q = .next v → SameVisible t v

namespace AlikeNext

variable {s u : State}

theorem respond {d b : Byte} (data : d = b) (h : SameVisible s u) :
    AlikeNext (Machine.respond d s) (Machine.respond b u) := by
  intro t v ht hv
  cases ht
  cases hv
  rw [data]
  exact h.withRsp _

theorem raise (e : ErrCode) (h : SameVisible s u) : AlikeNext (Machine.raise e s) (Machine.raise e u) := by
  intro t v ht hv
  cases ht
  cases hv
  exact h.withRsp _

/-- A check with the same result in both states, before either of two such bodies. -/
theorem ite {c c' : Prop} [Decidable c] [Decidable c'] {p q p' q' : Result} (same : c ↔ c')
    (pass : c → AlikeNext p p') (fail : ¬c → AlikeNext q q') :
    AlikeNext (if c then p else q) (if c' then p' else q') := by
  by_cases hc : c
  · rw [if_pos hc, if_pos (same.mp hc)]
    exact pass hc
  · rw [if_neg hc, if_neg (mt same.mpr hc)]
    exact fail hc

end AlikeNext

/-- Only the kinds that encrypt and decrypt answer from the register pair (42_stream_commands.md R131, R140). -/
theorem streamData_congr (T : Taps) (g : GateSel) (kind : StreamKind) (bits : List Bool) {e f : Engine}
    (pair : kind = .enc ∨ kind = .dec → e.lfsr = f.lfsr ∧ e.nfsr = f.nfsr) :
    streamData kind (streamSteps T g bits e).1 = streamData kind (streamSteps T g bits f).1 := by
  have cipher (hk : kind = .enc ∨ kind = .dec) : (streamSteps T g bits e).1 = (streamSteps T g bits f).1 := by
    obtain ⟨hl, hn⟩ := pair hk
    rw [streamSteps_fst, streamSteps_fst, keystream_congr T hl hn]
  cases kind with
  | ad | mac => rfl
  | enc => rw [cipher (.inl rfl)]
  | dec => rw [cipher (.inr rfl)]

/-- Equal tags agree in each of the eight bytes that `RDTAG` can return (20_memory.md R56). -/
theorem bufRead_acc_congr {s u : State} (tags : tag s = tag u) {k : Nat} (hk : k < 8) :
    bufRead s.engine.acc k = bufRead u.engine.acc k := by
  rw [← bufRead_tag s k hk, ← bufRead_tag u k hk, tags]

section Alike

variable {s u : State} (h : SameVisible s u)

include h

theorem stream_alike (C : Params) (kind : StreamKind) (bits : List Bool)
    (pair : kind = .enc ∨ kind = .dec → s.engine.lfsr = u.engine.lfsr ∧ s.engine.nfsr = u.engine.nfsr) :
    AlikeNext (stream C kind bits s) (stream C kind bits u) :=
  .ite (by rw [h.phase])
    (fun _ => .respond (streamData_congr C.taps _ kind bits pair) ((h.withEngine _ _).withPhase _))
    (fun _ => .raise _ h)

/-- A stream command of any kind and width. -/
theorem exec_stream_alike {i : Instr} {kind : StreamKind} {unit : DataUnit} (hi : streamOperand i = some (kind, unit))
    (pair : usesKeystream i → s.engine.lfsr = u.engine.lfsr ∧ s.engine.nfsr = u.engine.nfsr) :
    AlikeNext (exec i s) (exec i u) := by
  rw [Proofs.execIsConfigured, Proofs.execIsConfigured, execWith_of_streamOperand _ hi, execWith_of_streamOperand _ hi]
  refine stream_alike h _ kind _ fun cipher => pair ⟨unit, ?_⟩
  obtain rfl | rfl := cipher
  · exact .inl hi
  · exact .inr hi

theorem execLdk_alike (k : BitVec 4) (byte : Byte) : AlikeNext (execLdk k byte s) (execLdk k byte u) :=
  .ite (by rw [h.phase]) (fun _ => .raise _ h) (fun _ => .respond rfl (h.withKeyByte _ _))

theorem execLdiv_alike (k : BitVec 4) (byte : Byte) : AlikeNext (execLdiv k byte s) (execLdiv k byte u) :=
  .ite (by rw [h.phase]) (fun _ => .raise _ h)
    (fun _ => .ite Iff.rfl (fun _ => .raise _ h) (fun _ => .respond rfl (h.withIvByte _ _)))

theorem initWith_alike (C : Params) : AlikeNext (initWith C s) (initWith C u) :=
  .ite (by rw [h.keyReady_eq, h.ivReady_eq])
    (fun _ => .respond rfl ((h.withEngine _ _).clearedXtag.clearedVerdict.withPhase _))
    (fun _ => .raise _ h)

theorem finWith_alike (C : Params) : AlikeNext (finWith C s) (finWith C u) :=
  .ite (by rw [h.phase]) (fun _ => .respond rfl ((h.withEngine _ _).withPhase _)) (fun _ => .raise _ h)

/-- The bytes that `RDTAG` returns are those of the tag (43_finalize_and_tag.md R152). -/
theorem execRdtag_alike (k : BitVec 4) (tags : s.phase = .finalized → tag s = tag u) :
    AlikeNext (execRdtag k s) (execRdtag k u) :=
  .ite (by rw [h.phase]) (fun _ => .raise _ h) fun phase =>
    .ite Iff.rfl (fun _ => .raise _ h) fun index =>
      .respond (bufRead_acc_congr (tags (not_not.mp phase)) (not_le.mp index)) h

theorem execLdxt_alike (k : BitVec 4) (byte : Byte) : AlikeNext (execLdxt k byte s) (execLdxt k byte u) :=
  .ite (by rw [h.phase]) (fun _ => .raise _ h)
    (fun _ => .ite Iff.rfl (fun _ => .raise _ h) (fun _ => .respond rfl (h.withXtagByte _ _).clearedVerdict))

/-- `VFY` shows the result of one comparison (43 R155). -/
theorem execVfy_alike (tags : s.phase = .finalized → tag s = tag u) (xtags : s.xtag = u.xtag) :
    AlikeNext (execVfy s) (execVfy u) :=
  .ite (by rw [h.phase]) (fun _ => .raise _ h) fun phase =>
    .ite (by rw [h.xtagReady_eq]) (fun _ => .raise _ h) fun _ =>
      .ite (by rw [xtags, tags (not_not.mp phase)]) (fun _ => .respond rfl (h.withVerdict true))
        (fun _ => .raise _ (h.withVerdict false))

/-- No command tells apart two states that look alike and agree on what the command may show. -/
theorem exec_alike (i : Instr)
    (pair : usesKeystream i → s.engine.lfsr = u.engine.lfsr ∧ s.engine.nfsr = u.engine.nfsr)
    (tags : (∃ k, i = .rdtag k) ∨ i = .vfy → s.phase = .finalized → tag s = tag u)
    (xtags : i = .vfy → s.xtag = u.xtag) : AlikeNext (exec i s) (exec i u) := by
  cases i with
  | nop => exact .respond rfl h
  | rst => exact .respond rfl h.resetAll
  | ldk k byte => exact execLdk_alike h k byte
  | ldiv k byte => exact execLdiv_alike h k byte
  | init => exact initWith_alike h _
  | adb | adby | encb | encby | decb | decby | macb | macby => exact exec_stream_alike h rfl pair
  | fin => exact finWith_alike h _
  | rdtag k => exact execRdtag_alike h k (tags (.inl ⟨k, rfl⟩))
  | ldxt k byte => exact execLdxt_alike h k byte
  | vfy => exact execVfy_alike h (tags (.inr rfl)) (xtags rfl)
  | rdst => exact .respond h.status_eq h

end Alike

end Sys2Proof.Machine

/-! ### The statements -/

namespace Sys2Proof.Proofs

open Sys2Proof Sys2Proof.Machine

/-- Settles O34: a command reports the fault of its row however it ends, and any other word is rejected. -/
theorem faultTableHolds : Obligations.FaultTableHolds := by
  intro w s
  cases hw : decode w with
  | command i =>
    obtain ⟨t, _, ht, _⟩ := exec_answersAtAnyPort i s
    exact ⟨t, by rw [runWord_command hw, ht], (exec_ends ht).errField_eq⟩
  | illegal why => exact ⟨_, by rw [runWord_illegal hw, rejectWord_eq], rfl⟩

/-- Settles O35, by the ways a command ends. -/
theorem faultsChangeNothing : Obligations.FaultsChangeNothing := by
  intro i s t h fault
  cases exec_ends h with
  | rejected => exact .inl ⟨errCode .protocolError, rfl⟩
  | badParameter => exact .inl ⟨errCode .invalidParameter, rfl⟩
  | mismatched command => exact .inr ⟨command, rfl⟩
  | accepted => exact absurd (congrArg some (errField_responseWord .ok _)) fault

/-- Settles O39: each command consults visible fields only, but for the registers that it is allowed to show. -/
theorem secretsHaveNoReadPath : Obligations.SecretsHaveNoReadPath :=
  fun i _ _ t v h pair tags xtags => exec_alike h i pair tags xtags t v

/-- Settles O42: the word is accepted as any other, and decodes to no command. -/
theorem illegalWordIsRejected : Obligations.IllegalWordIsRejected := by
  intro s p ps why hin hrst hvalid hrsp hheld hdec
  rw [step_accepts hin hrst hvalid hrsp (changesStalledCommand_eq_false hheld), runWord_illegal hdec, rejectWord_eq]

/-- Settles O44: the host drives nothing, or a sample that offers nothing. -/
theorem idleStepHoldsState : Obligations.IdleStepHoldsState :=
  fun _ => ⟨step_exhausted, fun _ _ => step_idle⟩

end Sys2Proof.Proofs

/-! ## Reset and hazards: the hardware reset and the one stop of the port (spec 70_reset_and_hazards.md) -/

/-! ### Samples that reset the core or stop it (R220, R222; 93_implementation_defined.md U14) -/

namespace Sys2Proof.Machine

variable {s : State} {p : PortInput} {ps : List PortInput}

/-- `rst_n` low comes before all else that the sample drives. -/
theorem step_resets (hin : s.inputs = p :: ps) (hrst : p.rstN = false) :
    step s = .next { State.reset with inputs := ps, taken := s.taken } := by
  have reset : step s = .next (hardwareReset (setInputs ps s)) := by simp [step, nextSample, samplePins, hin, hrst]
  rw [reset, hardwareReset_eq, setInputs_inputs, setInputs_taken]

/-- Exactly a word other than the one held back counts as changed (log entry 7). -/
theorem changesStalledCommand_eq_true_iff :
    changesStalledCommand p s = true ↔ ∃ w, p.cmdValid = true ∧ s.stalled = some w ∧ p.cmd ≠ w := by
  cases h : s.stalled <;> simp [changesStalledCommand, h]

/-- A changed word stops the step, whether or not a response is outstanding (log entry 7). -/
theorem step_refuses (hin : s.inputs = p :: ps) (hrst : p.rstN = true) (hheld : changesStalledCommand p s = true) :
    step s = .refused .commandChangedWhileStalled := by
  have held : changesStalledCommand p (setInputs ps s) = true := hheld
  simp [step, nextSample, samplePins, hin, hrst, held]

/-- A sample that changes no word held back is answered: a response is offered, a word is executed, or nothing happens. -/
theorem step_answers (hin : s.inputs = p :: ps) (hrst : p.rstN = true) (hheld : changesStalledCommand p s = false) :
    ∃ t, step s = .next t := by
  cases hrsp : s.rsp with
  | some r => exact ⟨_, step_responds hin hrst hrsp hheld⟩
  | none =>
    cases hvalid : p.cmdValid with
    | false => exact ⟨_, step_idle hin hrst hvalid hrsp⟩
    | true =>
      obtain ⟨t, _, answered, _⟩ := runWord_answersAtAnyPort p.cmd { s with inputs := ps, stalled := none }
      exact ⟨t, (step_accepts hin hrst hvalid hrsp hheld).trans answered⟩

/-- All the ways a step can end: in a next state, or refused for a word that the next sample changes. -/
theorem step_answers_or_changes (s : State) :
    (∃ t, step s = .next t) ∨ ∃ p ps, s.inputs = p :: ps ∧ p.rstN = true ∧ changesStalledCommand p s = true := by
  cases hin : s.inputs with
  | nil => exact .inl ⟨s, step_exhausted hin⟩
  | cons p ps =>
    cases hrst : p.rstN with
    | false => exact .inl ⟨_, step_resets hin hrst⟩
    | true =>
      cases hheld : changesStalledCommand p s with
      | false => exact .inl (step_answers hin hrst hheld)
      | true => exact .inr ⟨p, ps, rfl, hrst, hheld⟩

end Sys2Proof.Machine

/-! ### The statements -/

namespace Sys2Proof.Proofs

open Sys2Proof Sys2Proof.Machine

/-- Settles O46: a step that does not answer has found a changed word, and a changed word is always refused. -/
theorem stepStopsExactlyOnChangedCommand : Obligations.StepStopsExactlyOnChangedCommand := by
  intro s
  refine ⟨(step_answers_or_changes s).imp_right ?stops, ?changed, ?refused⟩
  case stops =>
    rintro ⟨p, ps, hin, hrst, hheld⟩
    exact step_refuses hin hrst hheld
  case changed =>
    intro stopped
    obtain ⟨t, answered⟩ | ⟨p, ps, hin, hrst, hheld⟩ := step_answers_or_changes s
    · rw [answered] at stopped
      cases stopped
    · obtain ⟨w, hvalid, held, differs⟩ := changesStalledCommand_eq_true_iff.mp hheld
      exact ⟨p, ps, w, hin, hrst, hvalid, held, differs⟩
  case refused =>
    rintro ⟨p, ps, w, hin, hrst, hvalid, held, differs⟩
    exact step_refuses hin hrst (changesStalledCommand_eq_true_iff.mpr ⟨w, hvalid, held, differs⟩)

/-- Settles O45: the sample resets the core whatever else it drives. -/
theorem hardwareResetFromAnyState : Obligations.HardwareResetFromAnyState := fun _ _ _ => step_resets

end Sys2Proof.Proofs
